-- ==== Sys2Proof/Word.lean ====
section
/-! DEFINITION. The word types of the machine (00_scope.md R9): every bus cell and CPU register but the program counter
is a byte, every CPU bus address and the program counter is 16 bits. -/

namespace Sys2Proof

/-- A byte: 8 bits (00_scope.md R9). -/
abbrev Byte := BitVec 8

/-- A 16-bit CPU bus address (20_memory.md R60), also the width of the program counter (10_state.md R23). -/
abbrev Addr := BitVec 16

end Sys2Proof
end

