-- ==== Sys2Proof/Config.lean ====
section
/-! DEFINITION. What is fixed for a machine before it runs, and the free values. -/

namespace Sys2Proof

/-- What the cartridge answers for its mirroring mode (00_scope.md R8).
`other` is refused at boot (20_memory.md R76, 70_reset_and_hazards.md R401). -/
inductive MirroringMode where
  | horizontal | vertical | other
  deriving DecidableEq, Repr

/-- The bit the joypad collaborator answers to the `n`-th `read()` call of the run, made on port `port` (0 or 1).
FREE VALUE: the spec makes it an oracle, "an arbitrary bit, subject to no constraint the core can check"
(52_clock_dma.md R354), so it has no body. Log entry 4. -/
opaque Config.joypadBit (port n : Nat) : Bool

/-- The byte an operation that reads its operand gets in implied mode, in the global tick `g`. Only a launch with such an
`UNDEF_OP` meets it. FREE VALUE: the fetch stage "reads nothing" there (40_addressing.md R134) and the spec gives the
operation no other operand, so it has no body. Log entry 7. -/
opaque Config.absentOperand (g : Nat) : Byte

end Sys2Proof
end

