-- ==== Sys2Proof/Syntax.lean ====
section
/-! DEFINITION. The instructions as terms: one constructor of `Instr` for each row of spec/opcode_table.json.
The 151 defined rows have a constructor each.
The 105 rows of the mnemonic UND are the one table entry UNDEF_OP (30_encoding.md R110), the constructor `und`,
whose field is the opcode byte of the row. -/

namespace Sys2Proof

/-- The 56 operation tags of 30_encoding.md R107 and `und`, the table's tag for an undefined opcode (R110). -/
inductive Operation where
  | lda | ldx | ldy | sta | stx | sty
  | tax | tay | txa | tya | tsx | txs | pha | php | pla | plp
  | and | ora | eor | bit
  | adc | sbc | cmp | cpx | cpy
  | inc | dec | inx | iny | dex | dey
  | asl | lsr | rol | ror
  | jmp | jsr | rts | bcc | bcs | beq | bne | bmi | bpl | bvc | bvs
  | clc | sec | cli | sei | cld | sed | clv
  | brk | nop | rti
  | und
  deriving DecidableEq, Repr

/-- The 13 addressing-mode tags of 30_encoding.md R106. -/
inductive Mode where
  | imp | acc | imm | zp | zpx | zpy | rel | abs | abx | aby | ind | izx | izy
  deriving DecidableEq, Repr

/-- An operand in memory: the eight modes of 40_addressing.md whose effective address a load, a store or a
read-modify-write instruction uses (R124 to R126, R128 to R130, R132, R133). -/
inductive MemOperand where
  | zp (b1 : Byte) | zpx (b1 : Byte) | zpy (b1 : Byte)
  | abs (addr : Addr) | abx (addr : Addr) | aby (addr : Addr)
  | izx (b1 : Byte) | izy (b1 : Byte)
  deriving DecidableEq, Repr

/-- What the fetch stage can read (40_addressing.md R134): the operand byte of an immediate instruction (R123), the
accumulator (R122), or a byte of memory. -/
inductive Source where
  | imm (b1 : Byte)
  | acc
  | mem (m : MemOperand)
  deriving DecidableEq, Repr

/-- The operand of an instruction in any of the 13 modes (30_encoding.md R103). -/
inductive Operand where
  | imp
  | src (r : Source)
  | rel (b1 : Byte)
  | ind (ptr : Addr)
  deriving DecidableEq, Repr

/-- One constructor for each row of the opcode table: the operation, the mode and the operand bytes of the row. -/
inductive Instr where
  -- load and store
  | ldaImm (imm : Byte) | ldaZp (zp : Byte) | ldaZpx (zp : Byte) | ldaAbs (addr : Addr) | ldaAbx (addr : Addr)
  | ldaAby (addr : Addr) | ldaIzx (zp : Byte) | ldaIzy (zp : Byte)
  | ldxImm (imm : Byte) | ldxZp (zp : Byte) | ldxZpy (zp : Byte) | ldxAbs (addr : Addr) | ldxAby (addr : Addr)
  | ldyImm (imm : Byte) | ldyZp (zp : Byte) | ldyZpx (zp : Byte) | ldyAbs (addr : Addr) | ldyAbx (addr : Addr)
  | staZp (zp : Byte) | staZpx (zp : Byte) | staAbs (addr : Addr) | staAbx (addr : Addr) | staAby (addr : Addr)
  | staIzx (zp : Byte) | staIzy (zp : Byte)
  | stxZp (zp : Byte) | stxZpy (zp : Byte) | stxAbs (addr : Addr)
  | styZp (zp : Byte) | styZpx (zp : Byte) | styAbs (addr : Addr)
  -- register transfer and stack
  | tax
  | tay
  | txa
  | tya
  | tsx
  | txs
  | pha
  | php
  | pla
  | plp
  -- logical
  | andImm (imm : Byte) | andZp (zp : Byte) | andZpx (zp : Byte) | andAbs (addr : Addr) | andAbx (addr : Addr)
  | andAby (addr : Addr) | andIzx (zp : Byte) | andIzy (zp : Byte)
  | oraImm (imm : Byte) | oraZp (zp : Byte) | oraZpx (zp : Byte) | oraAbs (addr : Addr) | oraAbx (addr : Addr)
  | oraAby (addr : Addr) | oraIzx (zp : Byte) | oraIzy (zp : Byte)
  | eorImm (imm : Byte) | eorZp (zp : Byte) | eorZpx (zp : Byte) | eorAbs (addr : Addr) | eorAbx (addr : Addr)
  | eorAby (addr : Addr) | eorIzx (zp : Byte) | eorIzy (zp : Byte)
  | bitZp (zp : Byte) | bitAbs (addr : Addr)
  -- arithmetic and compare
  | adcImm (imm : Byte) | adcZp (zp : Byte) | adcZpx (zp : Byte) | adcAbs (addr : Addr) | adcAbx (addr : Addr)
  | adcAby (addr : Addr) | adcIzx (zp : Byte) | adcIzy (zp : Byte)
  | sbcImm (imm : Byte) | sbcZp (zp : Byte) | sbcZpx (zp : Byte) | sbcAbs (addr : Addr) | sbcAbx (addr : Addr)
  | sbcAby (addr : Addr) | sbcIzx (zp : Byte) | sbcIzy (zp : Byte)
  | cmpImm (imm : Byte) | cmpZp (zp : Byte) | cmpZpx (zp : Byte) | cmpAbs (addr : Addr) | cmpAbx (addr : Addr)
  | cmpAby (addr : Addr) | cmpIzx (zp : Byte) | cmpIzy (zp : Byte)
  | cpxImm (imm : Byte) | cpxZp (zp : Byte) | cpxAbs (addr : Addr)
  | cpyImm (imm : Byte) | cpyZp (zp : Byte) | cpyAbs (addr : Addr)
  -- increment and decrement
  | incZp (zp : Byte) | incZpx (zp : Byte) | incAbs (addr : Addr) | incAbx (addr : Addr)
  | decZp (zp : Byte) | decZpx (zp : Byte) | decAbs (addr : Addr) | decAbx (addr : Addr)
  | inx
  | iny
  | dex
  | dey
  -- shift and rotate
  | aslAcc | aslZp (zp : Byte) | aslZpx (zp : Byte) | aslAbs (addr : Addr) | aslAbx (addr : Addr)
  | lsrAcc | lsrZp (zp : Byte) | lsrZpx (zp : Byte) | lsrAbs (addr : Addr) | lsrAbx (addr : Addr)
  | rolAcc | rolZp (zp : Byte) | rolZpx (zp : Byte) | rolAbs (addr : Addr) | rolAbx (addr : Addr)
  | rorAcc | rorZp (zp : Byte) | rorZpx (zp : Byte) | rorAbs (addr : Addr) | rorAbx (addr : Addr)
  -- jump, call, return and branch
  | jmpAbs (addr : Addr) | jmpInd (ptr : Addr)
  | jsr (addr : Addr)
  | rts
  | bcc (rel : Byte)
  | bcs (rel : Byte)
  | beq (rel : Byte)
  | bne (rel : Byte)
  | bmi (rel : Byte)
  | bpl (rel : Byte)
  | bvc (rel : Byte)
  | bvs (rel : Byte)
  -- status flags
  | clc
  | sec
  | cli
  | sei
  | cld
  | sed
  | clv
  -- system
  | brk
  | nop
  | rti
  -- the 105 undefined opcodes
  | und (opcode : Byte)
  deriving DecidableEq, Repr

end Sys2Proof
end

