-- ==== Sys2Proof/WellFormed.lean ====
section
/-! DEFINITION. Which instruction terms stand for an instruction of the machine.
Every term of a defined row is well-formed: its operand bytes may hold any value (30_encoding.md R101, R103).
The one check is on `und`: its byte must be one of the 105 undefined opcodes of 30_encoding.md R110. -/

namespace Sys2Proof

/-- The undefined opcodes of R110, part 1 of 7. -/
def undefinedOpcodes1 : List Byte :=
  [0x02, 0x03, 0x04, 0x07, 0x0B, 0x0C, 0x0F, 0x12, 0x13, 0x14, 0x17, 0x1A, 0x1B, 0x1C, 0x1F]

/-- The undefined opcodes of R110, part 2 of 7. -/
def undefinedOpcodes2 : List Byte :=
  [0x22, 0x23, 0x27, 0x2B, 0x2F, 0x32, 0x33, 0x34, 0x37, 0x3A, 0x3B, 0x3C, 0x3F, 0x42, 0x43]

/-- The undefined opcodes of R110, part 3 of 7. -/
def undefinedOpcodes3 : List Byte :=
  [0x44, 0x47, 0x4B, 0x4F, 0x52, 0x53, 0x54, 0x57, 0x5A, 0x5B, 0x5C, 0x5F, 0x62, 0x63, 0x64]

/-- The undefined opcodes of R110, part 4 of 7. -/
def undefinedOpcodes4 : List Byte :=
  [0x67, 0x6B, 0x6F, 0x72, 0x73, 0x74, 0x77, 0x7A, 0x7B, 0x7C, 0x7F, 0x80, 0x82, 0x83, 0x87]

/-- The undefined opcodes of R110, part 5 of 7. -/
def undefinedOpcodes5 : List Byte :=
  [0x89, 0x8B, 0x8F, 0x92, 0x93, 0x97, 0x9B, 0x9C, 0x9E, 0x9F, 0xA3, 0xA7, 0xAB, 0xAF, 0xB2]

/-- The undefined opcodes of R110, part 6 of 7. -/
def undefinedOpcodes6 : List Byte :=
  [0xB3, 0xB7, 0xBB, 0xBF, 0xC2, 0xC3, 0xC7, 0xCB, 0xCF, 0xD2, 0xD3, 0xD4, 0xD7, 0xDA, 0xDB]

/-- The undefined opcodes of R110, part 7 of 7. -/
def undefinedOpcodes7 : List Byte :=
  [0xDC, 0xDF, 0xE2, 0xE3, 0xE7, 0xEB, 0xEF, 0xF2, 0xF3, 0xF4, 0xF7, 0xFA, 0xFB, 0xFC, 0xFF]

/-- The 105 undefined opcodes of 30_encoding.md R110. -/
def undefinedOpcodes : List Byte :=
  undefinedOpcodes1 ++ undefinedOpcodes2 ++ undefinedOpcodes3 ++ undefinedOpcodes4 ++ undefinedOpcodes5 ++
    undefinedOpcodes6 ++ undefinedOpcodes7

/-- The check of an instruction term. -/
def Instr.wf : Instr → Bool
  | .und opcode => undefinedOpcodes.contains opcode
  | _ => true

/-- The instruction term stands for an instruction of the machine. -/
abbrev Instr.WellFormed (i : Instr) : Prop := i.wf = true

end Sys2Proof
end

