-- ==== Sys2Proof/Decode.lean ====
section
/-! DEFINITION. From instruction bytes to instructions and back (30_encoding.md).
Decoding follows the opcode matrix of R108, encoding the list by mnemonic of R109: the two are written separately,
and Sys2Proof/Tests/Slice0.lean holds them against each other and against words written out from the spec. -/

namespace Sys2Proof

/-- `w[15:8]` (00_scope.md R9). -/
def hiByte (w : Addr) : Byte := w.extractLsb' 8 8

/-- `w[7:0]` (00_scope.md R9). -/
def loByte (w : Addr) : Byte := w.extractLsb' 0 8

/-- `hi ++ lo` (00_scope.md R9): the 16-bit value with `hi` in its high byte. -/
def mkAddr (hi lo : Byte) : Addr := (hi ++ lo : BitVec 16)

/-- The three formats of 30_encoding.md R101: the opcode alone, the opcode and an 8-bit operand, the opcode and a
16-bit operand, low byte first (R103). -/
inductive Format where
  | f1 (i : Instr)
  | f2 (mk : Byte → Instr)
  | f3 (mk : Addr → Instr)

/-- Row 0x of the opcode matrix (30_encoding.md R108): its defined cells by column. -/
def opcodeRow0 : List (Nat × Format) :=
  [(0x0, .f1 .brk), (0x1, .f2 .oraIzx), (0x5, .f2 .oraZp), (0x6, .f2 .aslZp), (0x8, .f1 .php),
   (0x9, .f2 .oraImm), (0xA, .f1 .aslAcc), (0xD, .f3 .oraAbs), (0xE, .f3 .aslAbs)]

/-- Row 1x of the opcode matrix (30_encoding.md R108): its defined cells by column. -/
def opcodeRow1 : List (Nat × Format) :=
  [(0x0, .f2 .bpl), (0x1, .f2 .oraIzy), (0x5, .f2 .oraZpx), (0x6, .f2 .aslZpx), (0x8, .f1 .clc),
   (0x9, .f3 .oraAby), (0xD, .f3 .oraAbx), (0xE, .f3 .aslAbx)]

/-- Row 2x of the opcode matrix (30_encoding.md R108): its defined cells by column. -/
def opcodeRow2 : List (Nat × Format) :=
  [(0x0, .f3 .jsr), (0x1, .f2 .andIzx), (0x4, .f2 .bitZp), (0x5, .f2 .andZp), (0x6, .f2 .rolZp),
   (0x8, .f1 .plp), (0x9, .f2 .andImm), (0xA, .f1 .rolAcc), (0xC, .f3 .bitAbs), (0xD, .f3 .andAbs),
   (0xE, .f3 .rolAbs)]

/-- Row 3x of the opcode matrix (30_encoding.md R108): its defined cells by column. -/
def opcodeRow3 : List (Nat × Format) :=
  [(0x0, .f2 .bmi), (0x1, .f2 .andIzy), (0x5, .f2 .andZpx), (0x6, .f2 .rolZpx), (0x8, .f1 .sec),
   (0x9, .f3 .andAby), (0xD, .f3 .andAbx), (0xE, .f3 .rolAbx)]

/-- Row 4x of the opcode matrix (30_encoding.md R108): its defined cells by column. -/
def opcodeRow4 : List (Nat × Format) :=
  [(0x0, .f1 .rti), (0x1, .f2 .eorIzx), (0x5, .f2 .eorZp), (0x6, .f2 .lsrZp), (0x8, .f1 .pha),
   (0x9, .f2 .eorImm), (0xA, .f1 .lsrAcc), (0xC, .f3 .jmpAbs), (0xD, .f3 .eorAbs), (0xE, .f3 .lsrAbs)]

/-- Row 5x of the opcode matrix (30_encoding.md R108): its defined cells by column. -/
def opcodeRow5 : List (Nat × Format) :=
  [(0x0, .f2 .bvc), (0x1, .f2 .eorIzy), (0x5, .f2 .eorZpx), (0x6, .f2 .lsrZpx), (0x8, .f1 .cli),
   (0x9, .f3 .eorAby), (0xD, .f3 .eorAbx), (0xE, .f3 .lsrAbx)]

/-- Row 6x of the opcode matrix (30_encoding.md R108): its defined cells by column. -/
def opcodeRow6 : List (Nat × Format) :=
  [(0x0, .f1 .rts), (0x1, .f2 .adcIzx), (0x5, .f2 .adcZp), (0x6, .f2 .rorZp), (0x8, .f1 .pla),
   (0x9, .f2 .adcImm), (0xA, .f1 .rorAcc), (0xC, .f3 .jmpInd), (0xD, .f3 .adcAbs), (0xE, .f3 .rorAbs)]

/-- Row 7x of the opcode matrix (30_encoding.md R108): its defined cells by column. -/
def opcodeRow7 : List (Nat × Format) :=
  [(0x0, .f2 .bvs), (0x1, .f2 .adcIzy), (0x5, .f2 .adcZpx), (0x6, .f2 .rorZpx), (0x8, .f1 .sei),
   (0x9, .f3 .adcAby), (0xD, .f3 .adcAbx), (0xE, .f3 .rorAbx)]

/-- Row 8x of the opcode matrix (30_encoding.md R108): its defined cells by column. -/
def opcodeRow8 : List (Nat × Format) :=
  [(0x1, .f2 .staIzx), (0x4, .f2 .styZp), (0x5, .f2 .staZp), (0x6, .f2 .stxZp), (0x8, .f1 .dey),
   (0xA, .f1 .txa), (0xC, .f3 .styAbs), (0xD, .f3 .staAbs), (0xE, .f3 .stxAbs)]

/-- Row 9x of the opcode matrix (30_encoding.md R108): its defined cells by column. -/
def opcodeRow9 : List (Nat × Format) :=
  [(0x0, .f2 .bcc), (0x1, .f2 .staIzy), (0x4, .f2 .styZpx), (0x5, .f2 .staZpx), (0x6, .f2 .stxZpy),
   (0x8, .f1 .tya), (0x9, .f3 .staAby), (0xA, .f1 .txs), (0xD, .f3 .staAbx)]

/-- Row Ax of the opcode matrix (30_encoding.md R108): its defined cells by column. -/
def opcodeRowA : List (Nat × Format) :=
  [(0x0, .f2 .ldyImm), (0x1, .f2 .ldaIzx), (0x2, .f2 .ldxImm), (0x4, .f2 .ldyZp), (0x5, .f2 .ldaZp),
   (0x6, .f2 .ldxZp), (0x8, .f1 .tay), (0x9, .f2 .ldaImm), (0xA, .f1 .tax), (0xC, .f3 .ldyAbs),
   (0xD, .f3 .ldaAbs), (0xE, .f3 .ldxAbs)]

/-- Row Bx of the opcode matrix (30_encoding.md R108): its defined cells by column. -/
def opcodeRowB : List (Nat × Format) :=
  [(0x0, .f2 .bcs), (0x1, .f2 .ldaIzy), (0x4, .f2 .ldyZpx), (0x5, .f2 .ldaZpx), (0x6, .f2 .ldxZpy),
   (0x8, .f1 .clv), (0x9, .f3 .ldaAby), (0xA, .f1 .tsx), (0xC, .f3 .ldyAbx), (0xD, .f3 .ldaAbx),
   (0xE, .f3 .ldxAby)]

/-- Row Cx of the opcode matrix (30_encoding.md R108): its defined cells by column. -/
def opcodeRowC : List (Nat × Format) :=
  [(0x0, .f2 .cpyImm), (0x1, .f2 .cmpIzx), (0x4, .f2 .cpyZp), (0x5, .f2 .cmpZp), (0x6, .f2 .decZp),
   (0x8, .f1 .iny), (0x9, .f2 .cmpImm), (0xA, .f1 .dex), (0xC, .f3 .cpyAbs), (0xD, .f3 .cmpAbs),
   (0xE, .f3 .decAbs)]

/-- Row Dx of the opcode matrix (30_encoding.md R108): its defined cells by column. -/
def opcodeRowD : List (Nat × Format) :=
  [(0x0, .f2 .bne), (0x1, .f2 .cmpIzy), (0x5, .f2 .cmpZpx), (0x6, .f2 .decZpx), (0x8, .f1 .cld),
   (0x9, .f3 .cmpAby), (0xD, .f3 .cmpAbx), (0xE, .f3 .decAbx)]

/-- Row Ex of the opcode matrix (30_encoding.md R108): its defined cells by column. -/
def opcodeRowE : List (Nat × Format) :=
  [(0x0, .f2 .cpxImm), (0x1, .f2 .sbcIzx), (0x4, .f2 .cpxZp), (0x5, .f2 .sbcZp), (0x6, .f2 .incZp),
   (0x8, .f1 .inx), (0x9, .f2 .sbcImm), (0xA, .f1 .nop), (0xC, .f3 .cpxAbs), (0xD, .f3 .sbcAbs),
   (0xE, .f3 .incAbs)]

/-- Row Fx of the opcode matrix (30_encoding.md R108): its defined cells by column. -/
def opcodeRowF : List (Nat × Format) :=
  [(0x0, .f2 .beq), (0x1, .f2 .sbcIzy), (0x5, .f2 .sbcZpx), (0x6, .f2 .incZpx), (0x8, .f1 .sed),
   (0x9, .f3 .sbcAby), (0xD, .f3 .sbcAbx), (0xE, .f3 .incAbx)]

/-- The opcode matrix of 30_encoding.md R108, by its row. -/
def opcodeRow : Nat → List (Nat × Format)
  | 0x0 => opcodeRow0
  | 0x1 => opcodeRow1
  | 0x2 => opcodeRow2
  | 0x3 => opcodeRow3
  | 0x4 => opcodeRow4
  | 0x5 => opcodeRow5
  | 0x6 => opcodeRow6
  | 0x7 => opcodeRow7
  | 0x8 => opcodeRow8
  | 0x9 => opcodeRow9
  | 0xA => opcodeRowA
  | 0xB => opcodeRowB
  | 0xC => opcodeRowC
  | 0xD => opcodeRowD
  | 0xE => opcodeRowE
  | 0xF => opcodeRowF
  | _ => []

/-- The cell of a row in a given column. -/
def cellOf (col : Nat) : List (Nat × Format) → Option Format
  | [] => none
  | (c, f) :: rest => if c = col then some f else cellOf col rest

/-- The table entry of an opcode byte: `TABLE[op]` of 30_encoding.md R105.
A byte with no cell in the matrix is an undefined opcode, one byte long (R110). -/
def opcodeEntry (op : Byte) : Format :=
  (cellOf (op.toNat % 16) (opcodeRow (op.toNat / 16))).getD (.f1 (.und op))

/-- Why bytes are no instruction: they end too early.
No opcode byte is rejected (30_encoding.md R105, R111). -/
inductive DecodeReject where
  | noOpcode
  | missingOperand (opcode : Byte)
  deriving DecidableEq, Repr

/-- The instruction at the front of a list of bytes, and the bytes after it (30_encoding.md R105). -/
def decode : List Byte → Except DecodeReject (Instr × List Byte)
  | [] => .error .noOpcode
  | op :: rest =>
    match opcodeEntry op, rest with
    | .f1 i, rest => .ok (i, rest)
    | .f2 mk, b1 :: rest => .ok (mk b1, rest)
    | .f3 mk, b1 :: b2 :: rest => .ok (mk (mkAddr b2 b1), rest)
    | _, _ => .error (.missingOperand op)

/-- The instruction the decoder reads from an instruction whose bits are `w`, byte 0 the least significant, with every
bit above `nbits` zero. -/
def decodeTableWord (nbits w : Nat) : Option Instr :=
  let bits := w % 2 ^ nbits
  match decode [BitVec.ofNat 8 bits, BitVec.ofNat 8 (bits / 2 ^ 8), BitVec.ofNat 8 (bits / 2 ^ 16)] with
  | .ok (i, _) => some i
  | .error _ => none

/-- The bytes of an opcode with a 16-bit operand, low byte first (30_encoding.md R101, R103). -/
def encode3 (op : Byte) (w : Addr) : List Byte := [op, loByte w, hiByte w]

/-- The bytes of an instruction, from the list by mnemonic of 30_encoding.md R109. -/
def encode : Instr → List Byte
  | .ldaImm imm => [0xA9, imm]
  | .ldaZp zp => [0xA5, zp]
  | .ldaZpx zp => [0xB5, zp]
  | .ldaAbs addr => encode3 0xAD addr
  | .ldaAbx addr => encode3 0xBD addr
  | .ldaAby addr => encode3 0xB9 addr
  | .ldaIzx zp => [0xA1, zp]
  | .ldaIzy zp => [0xB1, zp]
  | .ldxImm imm => [0xA2, imm]
  | .ldxZp zp => [0xA6, zp]
  | .ldxZpy zp => [0xB6, zp]
  | .ldxAbs addr => encode3 0xAE addr
  | .ldxAby addr => encode3 0xBE addr
  | .ldyImm imm => [0xA0, imm]
  | .ldyZp zp => [0xA4, zp]
  | .ldyZpx zp => [0xB4, zp]
  | .ldyAbs addr => encode3 0xAC addr
  | .ldyAbx addr => encode3 0xBC addr
  | .staZp zp => [0x85, zp]
  | .staZpx zp => [0x95, zp]
  | .staAbs addr => encode3 0x8D addr
  | .staAbx addr => encode3 0x9D addr
  | .staAby addr => encode3 0x99 addr
  | .staIzx zp => [0x81, zp]
  | .staIzy zp => [0x91, zp]
  | .stxZp zp => [0x86, zp]
  | .stxZpy zp => [0x96, zp]
  | .stxAbs addr => encode3 0x8E addr
  | .styZp zp => [0x84, zp]
  | .styZpx zp => [0x94, zp]
  | .styAbs addr => encode3 0x8C addr
  | .tax => [0xAA]
  | .tay => [0xA8]
  | .txa => [0x8A]
  | .tya => [0x98]
  | .tsx => [0xBA]
  | .txs => [0x9A]
  | .pha => [0x48]
  | .php => [0x08]
  | .pla => [0x68]
  | .plp => [0x28]
  | .andImm imm => [0x29, imm]
  | .andZp zp => [0x25, zp]
  | .andZpx zp => [0x35, zp]
  | .andAbs addr => encode3 0x2D addr
  | .andAbx addr => encode3 0x3D addr
  | .andAby addr => encode3 0x39 addr
  | .andIzx zp => [0x21, zp]
  | .andIzy zp => [0x31, zp]
  | .oraImm imm => [0x09, imm]
  | .oraZp zp => [0x05, zp]
  | .oraZpx zp => [0x15, zp]
  | .oraAbs addr => encode3 0x0D addr
  | .oraAbx addr => encode3 0x1D addr
  | .oraAby addr => encode3 0x19 addr
  | .oraIzx zp => [0x01, zp]
  | .oraIzy zp => [0x11, zp]
  | .eorImm imm => [0x49, imm]
  | .eorZp zp => [0x45, zp]
  | .eorZpx zp => [0x55, zp]
  | .eorAbs addr => encode3 0x4D addr
  | .eorAbx addr => encode3 0x5D addr
  | .eorAby addr => encode3 0x59 addr
  | .eorIzx zp => [0x41, zp]
  | .eorIzy zp => [0x51, zp]
  | .bitZp zp => [0x24, zp]
  | .bitAbs addr => encode3 0x2C addr
  | .adcImm imm => [0x69, imm]
  | .adcZp zp => [0x65, zp]
  | .adcZpx zp => [0x75, zp]
  | .adcAbs addr => encode3 0x6D addr
  | .adcAbx addr => encode3 0x7D addr
  | .adcAby addr => encode3 0x79 addr
  | .adcIzx zp => [0x61, zp]
  | .adcIzy zp => [0x71, zp]
  | .sbcImm imm => [0xE9, imm]
  | .sbcZp zp => [0xE5, zp]
  | .sbcZpx zp => [0xF5, zp]
  | .sbcAbs addr => encode3 0xED addr
  | .sbcAbx addr => encode3 0xFD addr
  | .sbcAby addr => encode3 0xF9 addr
  | .sbcIzx zp => [0xE1, zp]
  | .sbcIzy zp => [0xF1, zp]
  | .cmpImm imm => [0xC9, imm]
  | .cmpZp zp => [0xC5, zp]
  | .cmpZpx zp => [0xD5, zp]
  | .cmpAbs addr => encode3 0xCD addr
  | .cmpAbx addr => encode3 0xDD addr
  | .cmpAby addr => encode3 0xD9 addr
  | .cmpIzx zp => [0xC1, zp]
  | .cmpIzy zp => [0xD1, zp]
  | .cpxImm imm => [0xE0, imm]
  | .cpxZp zp => [0xE4, zp]
  | .cpxAbs addr => encode3 0xEC addr
  | .cpyImm imm => [0xC0, imm]
  | .cpyZp zp => [0xC4, zp]
  | .cpyAbs addr => encode3 0xCC addr
  | .incZp zp => [0xE6, zp]
  | .incZpx zp => [0xF6, zp]
  | .incAbs addr => encode3 0xEE addr
  | .incAbx addr => encode3 0xFE addr
  | .decZp zp => [0xC6, zp]
  | .decZpx zp => [0xD6, zp]
  | .decAbs addr => encode3 0xCE addr
  | .decAbx addr => encode3 0xDE addr
  | .inx => [0xE8]
  | .iny => [0xC8]
  | .dex => [0xCA]
  | .dey => [0x88]
  | .aslAcc => [0x0A]
  | .aslZp zp => [0x06, zp]
  | .aslZpx zp => [0x16, zp]
  | .aslAbs addr => encode3 0x0E addr
  | .aslAbx addr => encode3 0x1E addr
  | .lsrAcc => [0x4A]
  | .lsrZp zp => [0x46, zp]
  | .lsrZpx zp => [0x56, zp]
  | .lsrAbs addr => encode3 0x4E addr
  | .lsrAbx addr => encode3 0x5E addr
  | .rolAcc => [0x2A]
  | .rolZp zp => [0x26, zp]
  | .rolZpx zp => [0x36, zp]
  | .rolAbs addr => encode3 0x2E addr
  | .rolAbx addr => encode3 0x3E addr
  | .rorAcc => [0x6A]
  | .rorZp zp => [0x66, zp]
  | .rorZpx zp => [0x76, zp]
  | .rorAbs addr => encode3 0x6E addr
  | .rorAbx addr => encode3 0x7E addr
  | .jmpAbs addr => encode3 0x4C addr
  | .jmpInd ptr => encode3 0x6C ptr
  | .jsr addr => encode3 0x20 addr
  | .rts => [0x60]
  | .bcc rel => [0x90, rel]
  | .bcs rel => [0xB0, rel]
  | .beq rel => [0xF0, rel]
  | .bne rel => [0xD0, rel]
  | .bmi rel => [0x30, rel]
  | .bpl rel => [0x10, rel]
  | .bvc rel => [0x50, rel]
  | .bvs rel => [0x70, rel]
  | .clc => [0x18]
  | .sec => [0x38]
  | .cli => [0x58]
  | .sei => [0x78]
  | .cld => [0xD8]
  | .sed => [0xF8]
  | .clv => [0xB8]
  | .brk => [0x00]
  | .nop => [0xEA]
  | .rti => [0x40]
  | .und opcode => [opcode]

/-- The operation tag of an instruction's table row (30_encoding.md R109). -/
def Instr.operation : Instr → Operation
  | .ldaImm _ | .ldaZp _ | .ldaZpx _ | .ldaAbs _ | .ldaAbx _ | .ldaAby _ | .ldaIzx _ | .ldaIzy _ => .lda
  | .ldxImm _ | .ldxZp _ | .ldxZpy _ | .ldxAbs _ | .ldxAby _ => .ldx
  | .ldyImm _ | .ldyZp _ | .ldyZpx _ | .ldyAbs _ | .ldyAbx _ => .ldy
  | .staZp _ | .staZpx _ | .staAbs _ | .staAbx _ | .staAby _ | .staIzx _ | .staIzy _ => .sta
  | .stxZp _ | .stxZpy _ | .stxAbs _ => .stx
  | .styZp _ | .styZpx _ | .styAbs _ => .sty
  | .tax => .tax
  | .tay => .tay
  | .txa => .txa
  | .tya => .tya
  | .tsx => .tsx
  | .txs => .txs
  | .pha => .pha
  | .php => .php
  | .pla => .pla
  | .plp => .plp
  | .andImm _ | .andZp _ | .andZpx _ | .andAbs _ | .andAbx _ | .andAby _ | .andIzx _ | .andIzy _ => .and
  | .oraImm _ | .oraZp _ | .oraZpx _ | .oraAbs _ | .oraAbx _ | .oraAby _ | .oraIzx _ | .oraIzy _ => .ora
  | .eorImm _ | .eorZp _ | .eorZpx _ | .eorAbs _ | .eorAbx _ | .eorAby _ | .eorIzx _ | .eorIzy _ => .eor
  | .bitZp _ | .bitAbs _ => .bit
  | .adcImm _ | .adcZp _ | .adcZpx _ | .adcAbs _ | .adcAbx _ | .adcAby _ | .adcIzx _ | .adcIzy _ => .adc
  | .sbcImm _ | .sbcZp _ | .sbcZpx _ | .sbcAbs _ | .sbcAbx _ | .sbcAby _ | .sbcIzx _ | .sbcIzy _ => .sbc
  | .cmpImm _ | .cmpZp _ | .cmpZpx _ | .cmpAbs _ | .cmpAbx _ | .cmpAby _ | .cmpIzx _ | .cmpIzy _ => .cmp
  | .cpxImm _ | .cpxZp _ | .cpxAbs _ => .cpx
  | .cpyImm _ | .cpyZp _ | .cpyAbs _ => .cpy
  | .incZp _ | .incZpx _ | .incAbs _ | .incAbx _ => .inc
  | .decZp _ | .decZpx _ | .decAbs _ | .decAbx _ => .dec
  | .inx => .inx
  | .iny => .iny
  | .dex => .dex
  | .dey => .dey
  | .aslAcc | .aslZp _ | .aslZpx _ | .aslAbs _ | .aslAbx _ => .asl
  | .lsrAcc | .lsrZp _ | .lsrZpx _ | .lsrAbs _ | .lsrAbx _ => .lsr
  | .rolAcc | .rolZp _ | .rolZpx _ | .rolAbs _ | .rolAbx _ => .rol
  | .rorAcc | .rorZp _ | .rorZpx _ | .rorAbs _ | .rorAbx _ => .ror
  | .jmpAbs _ | .jmpInd _ => .jmp
  | .jsr _ => .jsr
  | .rts => .rts
  | .bcc _ => .bcc
  | .bcs _ => .bcs
  | .beq _ => .beq
  | .bne _ => .bne
  | .bmi _ => .bmi
  | .bpl _ => .bpl
  | .bvc _ => .bvc
  | .bvs _ => .bvs
  | .clc => .clc
  | .sec => .sec
  | .cli => .cli
  | .sei => .sei
  | .cld => .cld
  | .sed => .sed
  | .clv => .clv
  | .brk => .brk
  | .nop => .nop
  | .rti => .rti
  | .und _ => .und

/-- The operand of an instruction: its row's mode with the operand bytes (30_encoding.md R103, R109). -/
def Instr.operand : Instr → Operand
  | .ldaImm imm => .src (.imm imm)
  | .ldaZp zp => .src (.mem (.zp zp))
  | .ldaZpx zp => .src (.mem (.zpx zp))
  | .ldaAbs addr => .src (.mem (.abs addr))
  | .ldaAbx addr => .src (.mem (.abx addr))
  | .ldaAby addr => .src (.mem (.aby addr))
  | .ldaIzx zp => .src (.mem (.izx zp))
  | .ldaIzy zp => .src (.mem (.izy zp))
  | .ldxImm imm => .src (.imm imm)
  | .ldxZp zp => .src (.mem (.zp zp))
  | .ldxZpy zp => .src (.mem (.zpy zp))
  | .ldxAbs addr => .src (.mem (.abs addr))
  | .ldxAby addr => .src (.mem (.aby addr))
  | .ldyImm imm => .src (.imm imm)
  | .ldyZp zp => .src (.mem (.zp zp))
  | .ldyZpx zp => .src (.mem (.zpx zp))
  | .ldyAbs addr => .src (.mem (.abs addr))
  | .ldyAbx addr => .src (.mem (.abx addr))
  | .staZp zp => .src (.mem (.zp zp))
  | .staZpx zp => .src (.mem (.zpx zp))
  | .staAbs addr => .src (.mem (.abs addr))
  | .staAbx addr => .src (.mem (.abx addr))
  | .staAby addr => .src (.mem (.aby addr))
  | .staIzx zp => .src (.mem (.izx zp))
  | .staIzy zp => .src (.mem (.izy zp))
  | .stxZp zp => .src (.mem (.zp zp))
  | .stxZpy zp => .src (.mem (.zpy zp))
  | .stxAbs addr => .src (.mem (.abs addr))
  | .styZp zp => .src (.mem (.zp zp))
  | .styZpx zp => .src (.mem (.zpx zp))
  | .styAbs addr => .src (.mem (.abs addr))
  | .tax => .imp
  | .tay => .imp
  | .txa => .imp
  | .tya => .imp
  | .tsx => .imp
  | .txs => .imp
  | .pha => .imp
  | .php => .imp
  | .pla => .imp
  | .plp => .imp
  | .andImm imm => .src (.imm imm)
  | .andZp zp => .src (.mem (.zp zp))
  | .andZpx zp => .src (.mem (.zpx zp))
  | .andAbs addr => .src (.mem (.abs addr))
  | .andAbx addr => .src (.mem (.abx addr))
  | .andAby addr => .src (.mem (.aby addr))
  | .andIzx zp => .src (.mem (.izx zp))
  | .andIzy zp => .src (.mem (.izy zp))
  | .oraImm imm => .src (.imm imm)
  | .oraZp zp => .src (.mem (.zp zp))
  | .oraZpx zp => .src (.mem (.zpx zp))
  | .oraAbs addr => .src (.mem (.abs addr))
  | .oraAbx addr => .src (.mem (.abx addr))
  | .oraAby addr => .src (.mem (.aby addr))
  | .oraIzx zp => .src (.mem (.izx zp))
  | .oraIzy zp => .src (.mem (.izy zp))
  | .eorImm imm => .src (.imm imm)
  | .eorZp zp => .src (.mem (.zp zp))
  | .eorZpx zp => .src (.mem (.zpx zp))
  | .eorAbs addr => .src (.mem (.abs addr))
  | .eorAbx addr => .src (.mem (.abx addr))
  | .eorAby addr => .src (.mem (.aby addr))
  | .eorIzx zp => .src (.mem (.izx zp))
  | .eorIzy zp => .src (.mem (.izy zp))
  | .bitZp zp => .src (.mem (.zp zp))
  | .bitAbs addr => .src (.mem (.abs addr))
  | .adcImm imm => .src (.imm imm)
  | .adcZp zp => .src (.mem (.zp zp))
  | .adcZpx zp => .src (.mem (.zpx zp))
  | .adcAbs addr => .src (.mem (.abs addr))
  | .adcAbx addr => .src (.mem (.abx addr))
  | .adcAby addr => .src (.mem (.aby addr))
  | .adcIzx zp => .src (.mem (.izx zp))
  | .adcIzy zp => .src (.mem (.izy zp))
  | .sbcImm imm => .src (.imm imm)
  | .sbcZp zp => .src (.mem (.zp zp))
  | .sbcZpx zp => .src (.mem (.zpx zp))
  | .sbcAbs addr => .src (.mem (.abs addr))
  | .sbcAbx addr => .src (.mem (.abx addr))
  | .sbcAby addr => .src (.mem (.aby addr))
  | .sbcIzx zp => .src (.mem (.izx zp))
  | .sbcIzy zp => .src (.mem (.izy zp))
  | .cmpImm imm => .src (.imm imm)
  | .cmpZp zp => .src (.mem (.zp zp))
  | .cmpZpx zp => .src (.mem (.zpx zp))
  | .cmpAbs addr => .src (.mem (.abs addr))
  | .cmpAbx addr => .src (.mem (.abx addr))
  | .cmpAby addr => .src (.mem (.aby addr))
  | .cmpIzx zp => .src (.mem (.izx zp))
  | .cmpIzy zp => .src (.mem (.izy zp))
  | .cpxImm imm => .src (.imm imm)
  | .cpxZp zp => .src (.mem (.zp zp))
  | .cpxAbs addr => .src (.mem (.abs addr))
  | .cpyImm imm => .src (.imm imm)
  | .cpyZp zp => .src (.mem (.zp zp))
  | .cpyAbs addr => .src (.mem (.abs addr))
  | .incZp zp => .src (.mem (.zp zp))
  | .incZpx zp => .src (.mem (.zpx zp))
  | .incAbs addr => .src (.mem (.abs addr))
  | .incAbx addr => .src (.mem (.abx addr))
  | .decZp zp => .src (.mem (.zp zp))
  | .decZpx zp => .src (.mem (.zpx zp))
  | .decAbs addr => .src (.mem (.abs addr))
  | .decAbx addr => .src (.mem (.abx addr))
  | .inx => .imp
  | .iny => .imp
  | .dex => .imp
  | .dey => .imp
  | .aslAcc => .src .acc
  | .aslZp zp => .src (.mem (.zp zp))
  | .aslZpx zp => .src (.mem (.zpx zp))
  | .aslAbs addr => .src (.mem (.abs addr))
  | .aslAbx addr => .src (.mem (.abx addr))
  | .lsrAcc => .src .acc
  | .lsrZp zp => .src (.mem (.zp zp))
  | .lsrZpx zp => .src (.mem (.zpx zp))
  | .lsrAbs addr => .src (.mem (.abs addr))
  | .lsrAbx addr => .src (.mem (.abx addr))
  | .rolAcc => .src .acc
  | .rolZp zp => .src (.mem (.zp zp))
  | .rolZpx zp => .src (.mem (.zpx zp))
  | .rolAbs addr => .src (.mem (.abs addr))
  | .rolAbx addr => .src (.mem (.abx addr))
  | .rorAcc => .src .acc
  | .rorZp zp => .src (.mem (.zp zp))
  | .rorZpx zp => .src (.mem (.zpx zp))
  | .rorAbs addr => .src (.mem (.abs addr))
  | .rorAbx addr => .src (.mem (.abx addr))
  | .jmpAbs addr => .src (.mem (.abs addr))
  | .jmpInd ptr => .ind ptr
  | .jsr addr => .src (.mem (.abs addr))
  | .rts => .imp
  | .bcc rel => .rel rel
  | .bcs rel => .rel rel
  | .beq rel => .rel rel
  | .bne rel => .rel rel
  | .bmi rel => .rel rel
  | .bpl rel => .rel rel
  | .bvc rel => .rel rel
  | .bvs rel => .rel rel
  | .clc => .imp
  | .sec => .imp
  | .cli => .imp
  | .sei => .imp
  | .cld => .imp
  | .sed => .imp
  | .clv => .imp
  | .brk => .imp
  | .nop => .imp
  | .rti => .imp
  | .und _ => .imp

/-- The addressing-mode tag of an operand (30_encoding.md R106). -/
def Operand.mode : Operand → Mode
  | .imp => .imp
  | .src .acc => .acc
  | .src (.imm _) => .imm
  | .src (.mem (.zp _)) => .zp
  | .src (.mem (.zpx _)) => .zpx
  | .src (.mem (.zpy _)) => .zpy
  | .src (.mem (.abs _)) => .abs
  | .src (.mem (.abx _)) => .abx
  | .src (.mem (.aby _)) => .aby
  | .src (.mem (.izx _)) => .izx
  | .src (.mem (.izy _)) => .izy
  | .rel _ => .rel
  | .ind _ => .ind

/-- The addressing-mode tag of an instruction's table row. -/
def Instr.mode (i : Instr) : Mode := i.operand.mode

/-- The length in bytes of an instruction in each mode (30_encoding.md R104). -/
def Mode.length : Mode → Nat
  | .imp | .acc => 1
  | .imm | .zp | .zpx | .zpy | .rel | .izx | .izy => 2
  | .abs | .abx | .aby | .ind => 3

/-- The length in bytes of an instruction (30_encoding.md R104). -/
def Instr.length (i : Instr) : Nat := i.mode.length

end Sys2Proof
end

