-- ==== Sys2Proof/Machine/State.lean ====
section
/-! DEFINITION. The state of the machine as plain data (10_state.md), why it can stop, and the state after reset. -/

namespace Sys2Proof.Machine

/-- A memory: (address, byte) pairs, addresses strictly rising, no entry equal to what an unlisted address reads as
(`Memory.unlisted`). Sys2Proof/Machine/Memory.lean holds its form and its operations. -/
abbrev Memory := List Host.Cell

/-- What an address with no entry reads as. The spec leaves the contents of every memory at launch open
(10_state.md R49, 00_scope.md R8). DESIGN CHOICE, unsafe: log entry 2. -/
abbrev Memory.unlisted : Byte := 0

/-- The CPU register file (10_state.md R20 to R29). -/
structure Cpu where
  /-- Accumulator `A` (R20). -/
  a : Byte
  /-- Index register `X` (R21). -/
  x : Byte
  /-- Index register `Y` (R21). -/
  y : Byte
  /-- Stack pointer `SP` (R22). -/
  sp : Byte
  /-- Status register `P` (R24, R25): bit 0 C, 1 Z, 2 I, 3 D, 4 B, 5 U, 6 V, 7 N. -/
  p : Byte
  /-- Program counter (R23). -/
  pc : Addr
  /-- The cycle counter `cyc` (R29). -/
  cyc : Nat
  deriving DecidableEq, Repr

/-- One sprite shadow slot (10_state.md R39). -/
structure SpriteSlot where
  patLo : Byte
  patHi : Byte
  attr : Byte
  x : Byte
  deriving DecidableEq, Repr

/-- A cleared slot: "Clearing a slot sets all four to 0" (10_state.md R39). -/
def SpriteSlot.cleared : SpriteSlot := { patLo := 0, patHi := 0, attr := 0, x := 0 }

/-- The PPU with its private memories (10_state.md R32 to R40, R42, R43). -/
structure Ppu where
  /-- Current VRAM address (R32). -/
  v : BitVec 15
  /-- Temporary VRAM address (R32). -/
  t : BitVec 15
  /-- Fine-X scroll (R33). -/
  x : BitVec 3
  /-- Write toggle: true means the next write to the scroll or address register is a second write (R33). -/
  w : Bool
  /-- Control register (R34, 50_ppu_registers.md R253). -/
  ctrl : Byte
  /-- Mask register (R34, 50_ppu_registers.md R254). -/
  mask : Byte
  /-- Status register: bit 7 VBlank, 6 sprite-0 hit, 5 sprite overflow (R34, 50_ppu_registers.md R256). -/
  status : Byte
  /-- OAM address register (R34). -/
  oamAddr : Byte
  /-- The one-read delay of the data register (R34). -/
  dataBuffer : Byte
  /-- Background shift registers (R37). -/
  bgPatLo : BitVec 16
  bgPatHi : BitVec 16
  bgAttrLo : BitVec 16
  bgAttrHi : BitVec 16
  /-- Background fetch latches (R38). -/
  nextTileId : Byte
  nextAttr : BitVec 2
  nextPatLo : Byte
  nextPatHi : Byte
  /-- The eight sprite shadow slots, slot 0 first (R39). -/
  slots : List SpriteSlot
  /-- How many entries of secondary OAM are in use (R36). -/
  spriteCount : Nat
  /-- OAM entry 0 was copied into secondary OAM by the evaluation just done (R36). -/
  spr0Next : Bool
  /-- Slot 0 of the current scanline holds OAM entry 0 (R36). -/
  spr0Line : Bool
  /-- Position: scanline -1 to 260, cycle 0 to 340 (R40). -/
  scanline : Int
  cycle : Nat
  /-- OAM, keys 0 to 255 (R35). -/
  oam : Memory
  /-- Secondary OAM, keys 0 to 31 (R36). -/
  secOam : Memory
  /-- Nametable RAM: byte `offset` of bank `bank` has the key `bank * 1024 + offset` (R42). -/
  nt : Memory
  /-- Palette RAM, keys 0 to 31 (R43). -/
  pal : Memory
  deriving DecidableEq, Repr

/-- OAM DMA state (10_state.md R44). -/
structure Dma where
  active : Bool
  dummy : Bool
  page : Byte
  index : Byte
  data : Byte
  deriving DecidableEq, Repr

/-- The mirroring modes a booted machine can have (20_memory.md R76): `Other` is refused at boot. -/
inductive Mirroring where
  | horizontal | vertical
  deriving DecidableEq, Repr

/-- The instruction-table entry of the undefined opcodes: the parameter `UNDEF_OP` (00_scope.md R8). -/
structure UndefOp where
  operation : Operation
  mode : Mode
  cycles : Nat
  deriving DecidableEq, Repr

/-- The parameters of 00_scope.md R8 that are no contents of a memory. -/
structure Params where
  /-- `RESET_CYCLES`. -/
  resetCycles : Nat
  /-- `NMI_CYCLES`. -/
  nmiCycles : Nat
  /-- `UNDEF_OP`. -/
  undefOp : UndefOp
  /-- `SPRITE0_EXCLUDED_CYCLE`. -/
  sprite0ExcludedCycle : Nat
  deriving DecidableEq, Repr

/-- The values the column "default or decision" of 00_scope.md R8 gives (decisions D2, D7, D9, D34). -/
def Params.default : Params :=
  { resetCycles := 7, nmiCycles := 7, undefOp := { operation := .nop, mode := .imp, cycles := 2 },
    sprite0ExcludedCycle := 254 }

/-- What is constant for a run: the cartridge as the core sees it, two pure functions of an address and a mirroring mode
(52_clock_dma.md R355), and the parameters. All are launch arguments (00_scope.md R8), held in the state because a step
is a function of the state alone (log entry 2). -/
structure Fixed where
  /-- `readProgram`, keys the CPU addresses $4020 to $FFFF (20_memory.md R66). -/
  program : Memory
  /-- `readTiles`, keys the PPU addresses $0000 to $1FFF (20_memory.md R75). -/
  tiles : Memory
  mirroring : Mirroring
  params : Params
  deriving DecidableEq, Repr

/-- A write that raised the fatal condition: what `raise Fatal(CartridgeWrite, addr, v)` records
(60_exceptions.md R385). -/
structure FatalWrite where
  addr : Addr
  value : Byte
  deriving DecidableEq, Repr

/-- The calls the core makes to its collaborators that return nothing (52_clock_dma.md R351, R356). -/
inductive Event where
  /-- `drawPixel(x, y, colorIndex)` (R353). -/
  | drawPixel (x y : Nat) (color : Byte)
  /-- `presentFrame()` (R353). -/
  | presentFrame
  /-- `AudioWrite(addr, v)` (R352). -/
  | audioWrite (addr : Addr) (v : Byte)
  /-- `AudioTick()` (R352). -/
  | audioTick
  /-- `JoypadStrobe(b)`: `setStrobe(b)` on both ports (R354). -/
  | joypadStrobe (b : Bool)
  deriving DecidableEq, Repr

/-- The whole machine. -/
structure State where
  cpu : Cpu
  /-- The fault bit with what it records; `none` is the clear bit (10_state.md R31, 60_exceptions.md R385). -/
  fatal : Option FatalWrite
  /-- CPU RAM, keys 0 to 2047 (10_state.md R41). -/
  ram : Memory
  ppu : Ppu
  dma : Dma
  /-- The global tick counter (10_state.md R45). -/
  g : Nat
  fixed : Fixed
  /-- The output events so far, newest first (52_clock_dma.md R356). The model's own field: log entry 6. -/
  trace : List Event
  /-- How many joypad bits have been consumed: the index of the next free value (52_clock_dma.md R354).
  The model's own field: log entry 4. -/
  joypadReads : Nat
  deriving DecidableEq, Repr

/-- Why the machine stops. -/
inductive Fault where
  /-- The machine has stopped on the fatal condition: raised by `step` in a state whose fault bit is set, with the
  address and the byte of the write that set it (52_clock_dma.md R340, 60_exceptions.md R385).
  Safe: the spec allows no further change of state. -/
  | cartridgeWrite (addr : Addr) (value : Byte)
  deriving DecidableEq, Repr

/-- Why there is no next state although the hardware may have one. -/
inductive Refusal where
  /-- Raised by no arm of `exec`: every instruction has its meaning. Safe. -/
  | notModelled (mnemonic : String)
  /-- Raised by `boot` for MIRRORING = Other, which the spec refuses (70_reset_and_hazards.md R401, D20). Safe. -/
  | mirroringOther
  deriving DecidableEq, Repr

/-- What one instruction or one step answers. -/
abbrev Result := Host.Outcome State Fault Refusal

/-- The CPU with one register written. -/
def Cpu.setA (v : Byte) (c : Cpu) : Cpu := { c with a := v }
@[inherit_doc Cpu.setA] def Cpu.setX (v : Byte) (c : Cpu) : Cpu := { c with x := v }
@[inherit_doc Cpu.setA] def Cpu.setY (v : Byte) (c : Cpu) : Cpu := { c with y := v }
@[inherit_doc Cpu.setA] def Cpu.setSp (v : Byte) (c : Cpu) : Cpu := { c with sp := v }
@[inherit_doc Cpu.setA] def Cpu.setP (v : Byte) (c : Cpu) : Cpu := { c with p := v }
@[inherit_doc Cpu.setA] def Cpu.setPc (v : Addr) (c : Cpu) : Cpu := { c with pc := v }
@[inherit_doc Cpu.setA] def Cpu.setCyc (v : Nat) (c : Cpu) : Cpu := { c with cyc := v }

/-- The state with one part replaced. -/
def State.setCpu (v : Cpu) (s : State) : State := { s with cpu := v }
@[inherit_doc State.setCpu] def State.setFatal (v : Option FatalWrite) (s : State) : State := { s with fatal := v }
@[inherit_doc State.setCpu] def State.setRam (v : Memory) (s : State) : State := { s with ram := v }
@[inherit_doc State.setCpu] def State.setPpu (v : Ppu) (s : State) : State := { s with ppu := v }
@[inherit_doc State.setCpu] def State.setDma (v : Dma) (s : State) : State := { s with dma := v }
@[inherit_doc State.setCpu] def State.setG (v : Nat) (s : State) : State := { s with g := v }
@[inherit_doc State.setCpu] def State.setFixed (v : Fixed) (s : State) : State := { s with fixed := v }

/-- The state after one more output event (52_clock_dma.md R356). -/
def State.emit (e : Event) (s : State) : State := { s with trace := e :: s.trace }

/-- The state after one more joypad bit was consumed (52_clock_dma.md R354). -/
def State.joypadConsumed (s : State) : State := { s with joypadReads := s.joypadReads + 1 }

/-- The output events so far in order of emission (52_clock_dma.md R356). -/
def State.events (s : State) : List Event := s.trace.reverse

/-- The CPU after the reset sequence over a cartridge whose reset vector reads $0000
(10_state.md R47, 70_reset_and_hazards.md R400). -/
def Cpu.reset : Cpu :=
  { a := 0, x := 0, y := 0, sp := 0xFD, p := 0x24, pc := 0x0000, cyc := Params.default.resetCycles }

/-- The PPU at boot (10_state.md R48), its memories with nothing listed (R49, log entries 2 and 3). -/
def Ppu.reset : Ppu :=
  { v := 0, t := 0, x := 0, w := false, ctrl := 0, mask := 0, status := 0, oamAddr := 0, dataBuffer := 0,
    bgPatLo := 0, bgPatHi := 0, bgAttrLo := 0, bgAttrHi := 0,
    nextTileId := 0, nextAttr := 0, nextPatLo := 0, nextPatHi := 0,
    slots := List.replicate 8 SpriteSlot.cleared, spriteCount := 0, spr0Next := false, spr0Line := false,
    scanline := 0, cycle := 0, oam := [], secOam := [], nt := [], pal := [] }

/-- The DMA unit at boot (10_state.md R50). -/
def Dma.reset : Dma := { active := false, dummy := true, page := 0, index := 0, data := 0 }

/-- The machine right after reset (70_reset_and_hazards.md R400 to R402), launched with an empty cartridge and with
nothing listed in any memory (log entry 2). `boot` of Sys2Proof/Machine/Boot.lean is the boot sequence for any launch
parameters. -/
def State.reset : State :=
  { cpu := Cpu.reset, fatal := none, ram := [], ppu := Ppu.reset, dma := Dma.reset, g := 0,
    fixed := { program := [], tiles := [], mirroring := .horizontal, params := Params.default }, trace := [], joypadReads := 0 }

end Sys2Proof.Machine
end

