-- ==== Sys2Proof/Machine/Flags.lean ====
section
/-! DEFINITION. The status register `P` bit by bit (10_state.md R24 to R27) and every flag computation of the
instruction set. -/

namespace Sys2Proof.Machine

/-- The eight flags of `P` (10_state.md R25). -/
inductive Flag where
  | c | z | i | d | b | u | v | n
  deriving DecidableEq, Repr

/-- The bit of a flag in `P` (10_state.md R25). -/
def Flag.bit : Flag → Nat
  | .c => 0
  | .z => 1
  | .i => 2
  | .d => 3
  | .b => 4
  | .u => 5
  | .v => 6
  | .n => 7

/-- The value of a flag in a status byte. -/
def getFlag (f : Flag) (p : Byte) : Bool := p.getLsbD f.bit

/-- The byte with only a flag's bit set. -/
def Flag.byte (f : Flag) : Byte := 1#8 <<< f.bit

/-- A status byte with one flag written. -/
def setFlag (f : Flag) (value : Bool) (p : Byte) : Byte :=
  if value then p ||| f.byte else p &&& ~~~f.byte

/-- The value of a flag of the live status register. -/
def Cpu.flag (f : Flag) (c : Cpu) : Bool := getFlag f c.p

/-- The CPU with one flag written. -/
def Cpu.setFlag (f : Flag) (value : Bool) (c : Cpu) : Cpu := c.setP (Machine.setFlag f value c.p)

/-- `SetZN(v)`: Z from `v = 0`, N from bit 7 of `v` (40_addressing.md R138). -/
def Cpu.setZN (v : Byte) (c : Cpu) : Cpu :=
  (c.setFlag .z (decide (v = 0))).setFlag .n (v.getLsbD 7)

/-- The status byte PHP and BRK push: bits 4 and 5 set (42_transfer_stack.md R158, 49_system.md R235). -/
def pushedStatus (p : Byte) : Byte := p ||| 0x30

/-- The live status after PLP or RTI pulled `b`: bit 4 ignored, bit 5 forced to 1 (42_transfer_stack.md R160,
49_system.md R237). -/
def pulledStatus (b : Byte) : Byte := (b &&& 0xCF) ||| 0x20

/-- What an 8-bit addition leaves: the byte, the carry out and the signed overflow. -/
structure AddResult where
  value : Byte
  carry : Bool
  overflow : Bool
  deriving DecidableEq, Repr

/-- The addition of ADC (44_arithmetic.md R176), binary whatever the decimal flag holds (R177). -/
def addWithCarry (a m : Byte) (carryIn : Bool) : AddResult :=
  let sum := a.toNat + m.toNat + carryIn.toNat
  let r := BitVec.ofNat 8 sum
  { value := r,
    carry := decide (sum > 255),
    overflow := (a.getLsbD 7 == m.getLsbD 7) && (r.getLsbD 7 != a.getLsbD 7) }

/-- The subtraction of SBC: ADC of the one's complement of the operand (44_arithmetic.md R178). -/
def subWithBorrow (a m : Byte) (carryIn : Bool) : AddResult := addWithCarry a (m ^^^ 0xFF) carryIn

/-- The CPU after ADC of `m` (44_arithmetic.md R176). -/
def Cpu.adc (m : Byte) (c : Cpu) : Cpu :=
  let r := addWithCarry c.a m (c.flag .c)
  (((c.setFlag .c r.carry).setFlag .v r.overflow).setA r.value).setZN r.value

/-- The CPU after SBC of `m` (44_arithmetic.md R178). -/
def Cpu.sbc (m : Byte) (c : Cpu) : Cpu :=
  let r := subWithBorrow c.a m (c.flag .c)
  (((c.setFlag .c r.carry).setFlag .v r.overflow).setA r.value).setZN r.value

/-- The flags of CMP, CPX and CPY: the register `r` against `m` (44_arithmetic.md R179 to R181). -/
def Cpu.compare (r m : Byte) (c : Cpu) : Cpu :=
  (c.setFlag .c (decide (m.toNat ≤ r.toNat))).setZN (r - m)

/-- The flags of BIT (43_logical.md R169). -/
def Cpu.bitTest (m : Byte) (c : Cpu) : Cpu :=
  ((c.setFlag .z (decide (c.a &&& m = 0))).setFlag .v (m.getLsbD 6)).setFlag .n (m.getLsbD 7)

/-- One of the four one-bit moves of 46_shift_rotate.md: what leaves the byte and what is left of it, given the old
carry. -/
structure ShiftResult where
  carry : Bool
  value : Byte
  deriving DecidableEq, Repr

/-- ASL (46_shift_rotate.md R196). -/
def shiftAsl (_ : Bool) (m : Byte) : ShiftResult := { carry := m.getLsbD 7, value := m <<< 1 }

/-- LSR (46_shift_rotate.md R197). -/
def shiftLsr (_ : Bool) (m : Byte) : ShiftResult := { carry := m.getLsbD 0, value := m >>> 1 }

/-- ROL (46_shift_rotate.md R198). -/
def shiftRol (c : Bool) (m : Byte) : ShiftResult :=
  { carry := m.getLsbD 7, value := (m <<< 1) ||| (if c then 0x01 else 0x00) }

/-- ROR (46_shift_rotate.md R199). -/
def shiftRor (c : Bool) (m : Byte) : ShiftResult :=
  { carry := m.getLsbD 0, value := (m >>> 1) ||| (if c then 0x80 else 0x00) }

end Sys2Proof.Machine
end

