-- ==== Sys2Proof/Machine/Parameters.lean ====
section
/-! DEFINITION. The fixed addresses of the vectors. -/

namespace Sys2Proof.Machine

/-- The NMI vector (20_memory.md R68). -/
def nmiVector : Addr := 0xFFFA

/-- The reset vector (20_memory.md R68). -/
def resetVector : Addr := 0xFFFC

/-- The BRK vector (20_memory.md R68). -/
def brkVector : Addr := 0xFFFE

end Sys2Proof.Machine
end

