-- ==== Sys2Proof/Machine/Memory.lean ====
section
/-! DEFINITION. Byte memories in canonical form: reading, writing, and the form itself. -/

namespace Sys2Proof.Machine

/-- The byte a memory holds at an address: the listed byte, or `Memory.unlisted`. -/
def Memory.read : Memory → Nat → Byte
  | [], _ => Memory.unlisted
  | (k, b) :: rest, a => if a = k then b else Memory.read rest a

/-- A cell in front of a memory, left out where it holds what an unlisted address reads as. -/
def Memory.consCell (a : Nat) (v : Byte) (m : Memory) : Memory :=
  if v = Memory.unlisted then m else (a, v) :: m

/-- The memory with the byte `v` at the address `a`, in canonical form when `m` is. -/
def Memory.write : Memory → Nat → Byte → Memory
  | [], a, v => Memory.consCell a v []
  | (k, b) :: rest, a, v =>
    if k < a then (k, b) :: Memory.write rest a v
    else if k = a then Memory.consCell a v rest
    else Memory.consCell a v ((k, b) :: rest)

/-- Every entry lies in `lo` to `hi - 1` and holds another byte than an unlisted address, addresses strictly rising. -/
def Memory.canonicalFrom (lo hi : Nat) : Memory → Bool
  | [] => true
  | (k, b) :: rest => decide (lo ≤ k) && decide (k < hi) && decide (b ≠ Memory.unlisted) &&
      Memory.canonicalFrom (k + 1) hi rest

/-- The canonical form of a memory whose addresses are `lo` to `hi - 1`. -/
abbrev Memory.wf (lo hi : Nat) (m : Memory) : Prop := Memory.canonicalFrom lo hi m = true

end Sys2Proof.Machine
end

