-- ==== Sys2Proof/Machine/PpuBus.lean ====
section
/-! DEFINITION. The PPU bus (20_memory.md R73 to R79): tile data of the cartridge, nametable RAM with mirroring,
palette RAM with the backdrop alias. -/

namespace Sys2Proof.Machine

/-- The fold of a PPU address to 14 bits (20_memory.md R73). -/
def ppuFold (a : Addr) : Addr := a &&& 0x3FFF

/-- The logical nametable of a folded PPU address (20_memory.md R76). -/
def logicalNametable (a : Addr) : Nat := (a &&& 0x0FFF).toNat / 1024

/-- `NtBank(a)`: the bank of a logical nametable (20_memory.md R76). -/
def ntBank (mirroring : Mirroring) (a : Addr) : Nat :=
  match mirroring with
  | .horizontal => logicalNametable a / 2
  | .vertical => logicalNametable a % 2

/-- The key in nametable RAM of a folded PPU address (20_memory.md R76). -/
def ntKey (mirroring : Mirroring) (a : Addr) : Nat := ntBank mirroring a * 1024 + (a &&& 0x03FF).toNat

/-- `PalIndex(a)` (20_memory.md R77): the palette repeats every 32 bytes, and entries $10, $14, $18, $1C are the cells
of $00, $04, $08, $0C. -/
def palIndex (a : Addr) : Nat :=
  let i := (a &&& 0x1F).toNat
  if i = 0x10 ∨ i = 0x14 ∨ i = 0x18 ∨ i = 0x1C then i - 0x10 else i

/-- `PpuRead(addr)` (20_memory.md R74). -/
def ppuRead (fixed : Fixed) (p : Ppu) (addr : Addr) : Byte :=
  let a := ppuFold addr
  if a ≤ 0x1FFF then Memory.read fixed.tiles a.toNat
  else if a ≤ 0x3EFF then Memory.read p.nt (ntKey fixed.mirroring a)
  else Memory.read p.pal (palIndex a)

/-- `PpuWrite(addr, v)` (20_memory.md R79). -/
def ppuWrite (fixed : Fixed) (addr : Addr) (v : Byte) (p : Ppu) : Ppu :=
  let a := ppuFold addr
  if a ≤ 0x1FFF then p
  else if a ≤ 0x3EFF then { p with nt := Memory.write p.nt (ntKey fixed.mirroring a) v }
  else { p with pal := Memory.write p.pal (palIndex a) v }

end Sys2Proof.Machine
end

