-- ==== Sys2Proof/Machine/PpuRegisters.lean ====
section
/-! DEFINITION. The eight PPU registers seen from the CPU bus (50_ppu_registers.md R250 to R272). -/

namespace Sys2Proof.Machine

/-- A PPU address from the 15-bit `v` (20_memory.md R73). -/
def vramAddr (v : BitVec 15) : Addr := v.setWidth 16

/-- `CtrlWrite(d)` (50_ppu_registers.md R252). -/
def ctrlWrite (d : Byte) (p : Ppu) : Ppu :=
  { p with ctrl := d, t := (p.t &&& 0x73FF) ||| ((d &&& 3).setWidth 15 <<< 10) }

/-- `MaskWrite(d)` (50_ppu_registers.md R254). -/
def maskWrite (d : Byte) (p : Ppu) : Ppu := { p with mask := d }

/-- `rendering_enabled` (50_ppu_registers.md R255). -/
def Ppu.renderingEnabled (p : Ppu) : Bool := p.mask.getLsbD 3 || p.mask.getLsbD 4

/-- `StatusRead()` (50_ppu_registers.md R257). -/
def statusRead (p : Ppu) : Byte × Ppu :=
  (p.status &&& 0xE0, { p with status := p.status &&& 0x7F, w := false })

/-- A write of the OAM address register (50_ppu_registers.md R258). -/
def oamAddrWrite (d : Byte) (p : Ppu) : Ppu := { p with oamAddr := d }

/-- `OamDataRead()` (50_ppu_registers.md R259). -/
def oamDataRead (p : Ppu) : Byte := Memory.read p.oam p.oamAddr.toNat

/-- `OamDataWrite(d)` (50_ppu_registers.md R260). -/
def oamDataWrite (d : Byte) (p : Ppu) : Ppu :=
  { p with oam := Memory.write p.oam p.oamAddr.toNat d, oamAddr := p.oamAddr + 1 }

/-- `ScrollWrite(d)`: the first write (50_ppu_registers.md R263) and the second (R264). -/
def scrollWrite (d : Byte) (p : Ppu) : Ppu :=
  if p.w then
    { p with
      t := (p.t &&& 0x0C1F) ||| ((d &&& 7).setWidth 15 <<< 12) ||| ((d >>> 3).setWidth 15 <<< 5), w := false }
  else
    { p with t := (p.t &&& 0x7FE0) ||| (d >>> 3).setWidth 15, x := (d &&& 7).setWidth 3, w := true }

/-- `AddrWrite(d)`: the first write (50_ppu_registers.md R265) and the second (R266). -/
def addrWrite (d : Byte) (p : Ppu) : Ppu :=
  if p.w then
    let t := (p.t &&& 0x7F00) ||| d.setWidth 15
    { p with t := t, v := t, w := false }
  else
    { p with t := (p.t &&& 0x00FF) ||| ((d &&& 0x3F).setWidth 15 <<< 8), w := true }

/-- `inc`: what an access of the data register adds to `v` (50_ppu_registers.md R267). -/
def Ppu.vramIncrement (p : Ppu) : BitVec 15 := if p.ctrl.getLsbD 2 then 32 else 1

/-- `DataRead()` (50_ppu_registers.md R268). -/
def dataRead (fixed : Fixed) (p : Ppu) : Byte × Ppu :=
  let a := ppuFold (vramAddr p.v)
  let byte := ppuRead fixed p a
  let result := if a < 0x3F00 then p.dataBuffer else byte
  (result, { p with dataBuffer := byte, v := p.v + p.vramIncrement })

/-- `DataWrite(d)` (50_ppu_registers.md R269). -/
def dataWrite (fixed : Fixed) (d : Byte) (p : Ppu) : Ppu :=
  let q := ppuWrite fixed (ppuFold (vramAddr p.v)) d p
  { q with v := p.v + p.vramIncrement }

/-- `PpuRegRead(n)` (50_ppu_registers.md R251, R261). -/
def ppuRegRead (fixed : Fixed) (n : BitVec 3) (p : Ppu) : Byte × Ppu :=
  match n.toNat with
  | 2 => statusRead p
  | 4 => (oamDataRead p, p)
  | 7 => dataRead fixed p
  | _ => (0, p)

/-- `PpuRegWrite(n, d)` (50_ppu_registers.md R251, R261). -/
def ppuRegWrite (fixed : Fixed) (n : BitVec 3) (d : Byte) (p : Ppu) : Ppu :=
  match n.toNat with
  | 0 => ctrlWrite d p
  | 1 => maskWrite d p
  | 3 => oamAddrWrite d p
  | 4 => oamDataWrite d p
  | 5 => scrollWrite d p
  | 6 => addrWrite d p
  | 7 => dataWrite fixed d p
  | _ => p

end Sys2Proof.Machine
end

