-- ==== Sys2Proof/Machine/Ops.lean ====
section
/-! DEFINITION. The operations every instruction is built from: the CPU bus, instruction fetch, the stack, taking an
interrupt and returning from one, the fatal condition. -/

namespace Sys2Proof.Machine

/-- What a CPU bus address reaches: the rows of the CPU map (20_memory.md R70). -/
inductive CpuTarget where
  /-- RAM cell `index` (R63). -/
  | ram (index : Nat)
  /-- PPU register `n` (R64). -/
  | ppuRegister (n : BitVec 3)
  /-- $4000 to $4013 and $4015 (R65). -/
  | audio
  /-- $4014 (R65). -/
  | oamDma
  /-- $4016: joypad port 0 and the strobe (R65). -/
  | joypad0
  /-- $4017: joypad port 1 for reads, audio for writes (R65). -/
  | joypad1
  /-- $4018 to $401F (R65). -/
  | nothing
  /-- $4020 to $FFFF (R66, R67). -/
  | cartridge
  deriving DecidableEq, Repr

/-- The RAM cell of an address in $0000 to $1FFF (20_memory.md R63). -/
def ramIndex (a : Addr) : Nat := (a &&& 0x07FF).toNat

/-- The decode of a CPU bus address (20_memory.md R61, R62, R70). -/
def cpuTarget (a : Addr) : CpuTarget :=
  if a ≤ 0x1FFF then .ram (ramIndex a)
  else if a ≤ 0x3FFF then .ppuRegister ((a &&& 7).setWidth 3)
  else if a = 0x4014 then .oamDma
  else if a = 0x4016 then .joypad0
  else if a = 0x4017 then .joypad1
  else if a ≤ 0x4015 then .audio
  else if a ≤ 0x401F then .nothing
  else .cartridge

/-- `JoypadRead(port)`: the next free bit of the oracle in bit 0 (52_clock_dma.md R354, log entry 4). -/
def joypadRead (port : Nat) (s : State) : Byte × State :=
  (if Config.joypadBit port s.joypadReads then 1 else 0, s.joypadConsumed)

/-- `readProgram(addr)` (20_memory.md R66). -/
def readProgram (s : State) (a : Addr) : Byte := Memory.read s.fixed.program a.toNat

/-- `MemRead(addr, 1)` with its side effects (20_memory.md R61, R85). -/
def memRead (a : Addr) (s : State) : Byte × State :=
  match cpuTarget a with
  | .ram i => (Memory.read s.ram i, s)
  | .ppuRegister n => ((ppuRegRead s.fixed n s.ppu).1, s.setPpu (ppuRegRead s.fixed n s.ppu).2)
  | .joypad0 => joypadRead 0 s
  | .joypad1 => joypadRead 1 s
  | .audio | .oamDma | .nothing => (0, s)
  | .cartridge => (readProgram s a, s)

/-- `DmaStart(d)` (52_clock_dma.md R347). -/
def dmaStart (d : Byte) (s : State) : State :=
  (s.setPpu { s.ppu with oamAddr := 0 }).setDma { s.dma with active := true, dummy := true, page := d, index := 0 }

/-- `MemWrite(addr, 1, v)` (20_memory.md R62): none where it raises the fatal condition (R67). -/
def memWrite (a : Addr) (v : Byte) (s : State) : Option State :=
  match cpuTarget a with
  | .ram i => some (s.setRam (Memory.write s.ram i v))
  | .ppuRegister n => some (s.setPpu (ppuRegWrite s.fixed n v s.ppu))
  | .oamDma => some (dmaStart v s)
  | .joypad0 => some (s.emit (.joypadStrobe (v.getLsbD 0)))
  | .joypad1 | .audio => some (s.emit (.audioWrite a v))
  | .nothing => some s
  | .cartridge => none

/-- `raise Fatal(CartridgeWrite, addr, v)`: the fault bit is set with what it records, the write does not happen
(60_exceptions.md R385, log entry 5). -/
def raiseFatal (a : Addr) (v : Byte) (s : State) : State := s.setFatal (some { addr := a, value := v })

/-- A write with what the instruction does after it: where the write raises the fatal condition the effects before it
are kept and the rest is not performed (60_exceptions.md R385). -/
def writeThen (a : Addr) (v : Byte) (s : State) (rest : State → State) : Result :=
  match memWrite a v s with
  | some t => .next (rest t)
  | none => .next (raiseFatal a v s)

/-- `Read16(addr)`: low byte first, the successor address wraps (40_addressing.md R135). -/
def read16 (a : Addr) (s : State) : Addr × State :=
  let lo := memRead a s
  let hi := memRead (a + 1) lo.2
  (mkAddr hi.1 lo.1, hi.2)

/-- The byte at `pc`, with `pc` advanced past it (30_encoding.md R105, 10_state.md R23). -/
def fetchByte (s : State) : Byte × State :=
  let r := memRead s.cpu.pc s
  (r.1, r.2.setCpu (r.2.cpu.setPc (s.cpu.pc + 1)))

/-- The two bytes at `pc`, low byte first, with `pc` advanced past them (40_addressing.md R128). -/
def fetchAddr (s : State) : Addr × State :=
  let b1 := fetchByte s
  let b2 := fetchByte b1.2
  (mkAddr b2.1 b1.1, b2.2)

/-- The operand bytes of a table entry, read at `pc` at increasing addresses, each once
(30_encoding.md R101, R105, 20_memory.md R86). -/
def fetchOperands (e : Format) (s : State) : Instr × State :=
  match e with
  | .f1 i => (i, s)
  | .f2 mk =>
    let b1 := fetchByte s
    (mk b1.1, b1.2)
  | .f3 mk =>
    let w := fetchAddr s
    (mk w.1, w.2)

/-- The instruction at `pc`, with `pc` past its last byte: the opcode byte and then its operand bytes
(30_encoding.md R105, 20_memory.md R86, R91). -/
def fetchInstr (s : State) : Instr × State :=
  let op := fetchByte s
  fetchOperands (opcodeEntry op.1) op.2

/-- The address of the stack cell `SP` names (10_state.md R22). -/
def stackAddr (sp : Byte) : Addr := mkAddr 0x01 sp

/-- `Push(v)`: write, then decrement (40_addressing.md R136).
The address is in page 1, so the write is the RAM row of `MemWrite`. -/
def push (v : Byte) (s : State) : State :=
  (s.setRam (Memory.write s.ram (ramIndex (stackAddr s.cpu.sp)) v)).setCpu (s.cpu.setSp (s.cpu.sp - 1))

/-- `Pull()`: increment, then read (40_addressing.md R137).
The address is in page 1, so the read is the RAM row of `MemRead`. -/
def pull (s : State) : Byte × State :=
  (Memory.read s.ram (ramIndex (stackAddr (s.cpu.sp + 1))), s.setCpu (s.cpu.setSp (s.cpu.sp + 1)))

/-- A 16-bit value pushed high byte first (20_memory.md R82). -/
def pushAddr (w : Addr) (s : State) : State := push (loByte w) (push (hiByte w) s)

/-- A 16-bit value pulled low byte first (47_jump_branch.md R208, 49_system.md R237). -/
def pullAddr (s : State) : Addr × State :=
  let lo := pull s
  let hi := pull lo.2
  (mkAddr hi.1 lo.1, hi.2)

/-- The CPU of a state changed by `f`. -/
def State.mapCpu (f : Cpu → Cpu) (s : State) : State := s.setCpu (f s.cpu)

/-- Taking an interrupt: the return address and a status byte are pushed, `P.I` is set, `pc` is loaded from the vector
(49_system.md R235 for BRK, 60_exceptions.md R377 for NMI). -/
def enterInterrupt (vector returnAddr : Addr) (status : Byte) (s : State) : State :=
  let s1 := push status (pushAddr returnAddr s)
  let s2 := s1.mapCpu (·.setFlag .i true)
  let target := read16 vector s2
  target.2.mapCpu (·.setPc target.1)

/-- `Enter(NMI)` (60_exceptions.md R377): the live `P` is pushed and the entry cost is added to `cyc`. -/
def enterNmi (s : State) : State :=
  (enterInterrupt nmiVector s.cpu.pc s.cpu.p s).mapCpu fun c => c.setCyc (c.cyc + s.fixed.params.nmiCycles)

/-- The BRK sequence: `pc` is the address of the BRK opcode plus 1, the pushed return address skips one more byte, and
the pushed status has bits 4 and 5 set (49_system.md R235). -/
def enterBrk (s : State) : State :=
  enterInterrupt brkVector (s.cpu.pc + 1) (pushedStatus s.cpu.p) s

/-- The return of RTI: status, then `pc` low, then `pc` high, with no 1 added (49_system.md R237). -/
def returnFromInterrupt (s : State) : State :=
  let b := pull s
  let s1 := b.2.mapCpu (·.setP (pulledStatus b.1))
  let target := pullAddr s1
  target.2.mapCpu (·.setPc target.1)

/-- The cycle counter loaded with an instruction's total cost (52_clock_dma.md R345). -/
def State.charge (cost : Nat) (s : State) : State := s.mapCpu (·.setCyc cost)

end Sys2Proof.Machine
end

