-- ==== Sys2Proof/Machine/Boot.lean ====
section
/-! DEFINITION. The boot sequence over any launch parameters (70_reset_and_hazards.md R400 to R402), and placing a
program where a machine fetches from. -/

namespace Sys2Proof.Machine

/-- The launch parameters of 00_scope.md R8: the cartridge, what the memories hold at boot, and the numbers and the table
entry of `Params`, at the spec's defaults unless given. The joypad's answers are no launch parameter (log entry 4). -/
structure Launch where
  program : Memory
  tiles : Memory
  mirroring : MirroringMode
  ram : Memory
  oam : Memory
  nt : Memory
  pal : Memory
  params : Params := Params.default
  deriving DecidableEq, Repr

/-- A launch with nothing listed anywhere. -/
def Launch.empty : Launch :=
  { program := [], tiles := [], mirroring := .horizontal, ram := [], oam := [], nt := [], pal := [] }

/-- `Enter(RESET)` (70_reset_and_hazards.md R400): three dummy pushes move `SP` and write nothing. -/
def enterReset (s : State) : State :=
  let dummyPush : Byte → Byte := fun sp => sp - 1
  let s1 := (s.setCpu { a := 0, x := 0, y := 0, sp := dummyPush (dummyPush (dummyPush 0)), p := 0x24,
                        pc := s.cpu.pc, cyc := s.fixed.params.resetCycles }).setFatal none
  let target := read16 resetVector s1
  target.2.mapCpu (·.setPc target.1)

/-- The state of a machine with the launch parameters in place, before `Enter(RESET)` (70_reset_and_hazards.md R401). -/
def Launch.place (l : Launch) (mirroring : Mirroring) : State :=
  { State.reset with
    fixed := { program := l.program, tiles := l.tiles, mirroring := mirroring, params := l.params }
    ram := l.ram
    ppu := { Ppu.reset with oam := l.oam, nt := l.nt, pal := l.pal } }

/-- `Boot(...)` (70_reset_and_hazards.md R401): MIRRORING = Other is refused (decision D20). -/
def boot (l : Launch) : Result :=
  match l.mirroring with
  | .other => .refused .mirroringOther
  | .horizontal => .next (enterReset (l.place .horizontal))
  | .vertical => .next (enterReset (l.place .vertical))

/-- A byte placed, from outside the machine, in the memory a CPU bus address reaches: RAM or the cartridge's program.
A device address has no memory to place it in. -/
def placeByte (a : Addr) (v : Byte) (s : State) : State :=
  match cpuTarget a with
  | .ram i => s.setRam (Memory.write s.ram i v)
  | .cartridge => s.setFixed { s.fixed with program := Memory.write s.fixed.program a.toNat v }
  | _ => s

/-- An address where a byte can be placed. -/
def placeable (a : Addr) : Bool :=
  match cpuTarget a with
  | .ram _ | .cartridge => true
  | _ => false

end Sys2Proof.Machine
end

