-- ==== Sys2Proof/Machine/Operands.lean ====
section
/-! DEFINITION. Addressing resolution and the fetch stage (40_addressing.md R120 to R134), and the four shapes of an
instruction with an operand: it reads, it stores, it reads and writes back, it branches.
An instruction's bytes have been fetched when its meaning runs: `pc` is the address of the byte after the instruction
and the operand bytes are the instruction's arguments (log entry 1). -/

namespace Sys2Proof.Machine

/-- What addressing resolution answers for a memory operand: the effective address, and whether an index addition
crossed a page (40_addressing.md R120). -/
structure Resolved where
  ea : Addr
  crossed : Bool
  deriving DecidableEq, Repr

/-- A byte of the zero page (20_memory.md R69), a RAM cell. -/
def zeroPageByte (s : State) (a : Byte) : Byte := Memory.read s.ram (ramIndex (mkAddr 0x00 a))

/-- The pointer at a zero-page address: both bytes come from the zero page (40_addressing.md R132, R133). -/
def zeroPagePointer (s : State) (a : Byte) : Addr := mkAddr (zeroPageByte s (a + 1)) (zeroPageByte s a)

/-- An index added to a 16-bit base, with the page-crossed report (40_addressing.md R129, R130, R133). -/
def indexed (base : Addr) (index : Byte) : Resolved :=
  let ea := base + index.setWidth 16
  { ea := ea, crossed := decide (hiByte ea ≠ hiByte base) }

/-- Addressing resolution of a memory operand (40_addressing.md R124 to R126, R128 to R130, R132, R133).
The only bus reads it makes are of zero-page pointers, which have no side effect (20_memory.md R85). -/
def resolve (m : MemOperand) (s : State) : Resolved :=
  match m with
  | .zp b1 => { ea := mkAddr 0x00 b1, crossed := false }
  | .zpx b1 => { ea := mkAddr 0x00 (b1 + s.cpu.x), crossed := false }
  | .zpy b1 => { ea := mkAddr 0x00 (b1 + s.cpu.y), crossed := false }
  | .abs addr => { ea := addr, crossed := false }
  | .abx addr => indexed addr s.cpu.x
  | .aby addr => indexed addr s.cpu.y
  | .izx b1 => { ea := zeroPagePointer s (b1 + s.cpu.x), crossed := false }
  | .izy b1 => indexed (zeroPagePointer s b1) s.cpu.y

/-- The target of an indirect jump and the state after its two pointer reads: the high byte comes from the same page as
the low byte (40_addressing.md R131). -/
def resolveIndirect (ptr : Addr) (s : State) : Addr × State :=
  let lo := memRead ptr s
  let hi := memRead (mkAddr (hiByte ptr) (loByte ptr + 1)) lo.2
  (mkAddr hi.1 lo.1, hi.2)

/-- The target of a branch: `pc` plus the sign-extended offset (40_addressing.md R127). -/
def branchTarget (pc : Addr) (b1 : Byte) : Addr := pc + b1.signExtend 16

/-- The fetch stage (40_addressing.md R134): the operand byte and the state after its one read.
The operand byte of an immediate instruction is the byte at its effective address (R123), already fetched. -/
def fetchOperand (r : Source) (s : State) : Byte × State :=
  match r with
  | .imm b1 => (b1, s)
  | .acc => (s.cpu.a, s)
  | .mem m => memRead (resolve m s).ea s

/-- Whether resolving the operand reports a page crossing (40_addressing.md R120). -/
def pageCrossed (r : Source) (s : State) : Bool :=
  match r with
  | .imm _ | .acc => false
  | .mem m => (resolve m s).crossed

/-- The page-cross cycle of the instructions that read their operand (70_reset_and_hazards.md R421).
BIT, CPX and CPY have no mode that reports a crossing. -/
def pagePenalty (r : Source) (s : State) : Nat := if pageCrossed r s then 1 else 0

/-- An instruction that reads its operand and changes registers and flags only. -/
def readInstr (r : Source) (base : Nat) (f : Byte → Cpu → Cpu) (s : State) : Result :=
  let m := fetchOperand r s
  .next ((m.2.mapCpu (f m.1)).charge (base + pagePenalty r s))

/-- Where addressing resolution says an operand is (40_addressing.md R120): nowhere, in the accumulator, or at the
effective address. -/
inductive OperandTag where
  | none | acc | mem
  deriving DecidableEq, Repr

/-- The triple addressing resolution returns (40_addressing.md R120). -/
structure Resolution where
  ea : Addr
  crossed : Bool
  tag : OperandTag
  deriving DecidableEq, Repr

/-- The resolution of a memory operand. -/
def inMemory (m : MemOperand) (s : State) : Resolution :=
  { ea := (resolve m s).ea, crossed := (resolve m s).crossed, tag := .mem }

/-- The fetch stage of an operation that reads its operand (40_addressing.md R134). With nothing to read the spec gives
no byte: it is a free value (log entry 7). -/
def operandByte (r : Resolution) (s : State) : Byte × State :=
  match r.tag with
  | .none => (Config.absentOperand s.g, s)
  | .acc => (s.cpu.a, s)
  | .mem => memRead r.ea s

/-- The byte an operation leaves where its operand is, with what the instruction does after it: in accumulator mode in
`A` instead of memory (40_addressing.md R122), else at the effective address. -/
def writeBack (r : Resolution) (v : Byte) (s : State) (rest : State → State) : Result :=
  match r.tag with
  | .acc => .next (rest (s.mapCpu (·.setA v)))
  | .none | .mem => writeThen r.ea v s rest

/-- An operation that reads its operand and changes registers and flags only. -/
def readAt (r : Resolution) (base : Nat) (f : Byte → Cpu → Cpu) (s : State) : Result :=
  let m := operandByte r s
  .next ((m.2.mapCpu (f m.1)).charge base)

/-- A store: one write of the effective address, no read of it (41_load_store.md R140). -/
def storeAt (r : Resolution) (base : Nat) (v : Byte) (s : State) : Result := writeBack r v s (·.charge base)

/-- A read-modify-write operation (45_incdec.md R185, 46_shift_rotate.md R195): one read, then `before` on the CPU, then
one write of the result, then Z and N from the result. -/
def modifyAt (r : Resolution) (base : Nat) (before : Byte → Cpu → Cpu) (result : Byte → Cpu → Byte)
    (s : State) : Result :=
  let byte := operandByte r s
  let v := result byte.1 byte.2.cpu
  writeBack r v (byte.2.mapCpu (before byte.1)) fun t => (t.mapCpu (·.setZN v)).charge base

/-- A store to a memory operand. -/
def storeInstr (m : MemOperand) (base : Nat) (v : Byte) (s : State) : Result := storeAt (inMemory m s) base v s

/-- A read-modify-write operation on a memory operand. -/
def modifyInstr (m : MemOperand) (base : Nat) (before : Byte → Cpu → Cpu) (result : Byte → Cpu → Byte)
    (s : State) : Result := modifyAt (inMemory m s) base before result s

/-- An instruction in implied or accumulator mode that changes registers and flags only. -/
def registerInstr (base : Nat) (f : Cpu → Cpu) (s : State) : Result :=
  .next ((s.mapCpu f).charge base)

/-- A conditional branch to a target (47_jump_branch.md R209). -/
def branchTo (condition : Bool) (base : Nat) (target : Addr) (s : State) : Result :=
  let next := s.cpu.pc
  if condition then
    let extra := 1 + (if hiByte target ≠ hiByte next then 1 else 0)
    .next ((s.mapCpu (·.setPc target)).charge (base + extra))
  else .next (s.charge base)

/-- A conditional branch by an offset (47_jump_branch.md R209, 40_addressing.md R127). -/
def branchInstr (condition : Bool) (base : Nat) (b1 : Byte) (s : State) : Result :=
  branchTo condition base (branchTarget s.cpu.pc b1) s

end Sys2Proof.Machine
end

