-- ==== Sys2Proof/Machine/Arithmetic.lean ====
section
/-! DEFINITION. ADC, SBC, CMP, CPX, CPY (44_arithmetic.md).
Each table row has a meaning of its own: the operation, the row's mode with its operand bytes, and the
row's base cost. -/

namespace Sys2Proof.Machine

/-- ADC (44_arithmetic.md R176, R177): add with carry. -/
def performAdc (r : Source) (base : Nat) (s : State) : Result := readInstr r base Cpu.adc s

/-! The rows of ADC (30_encoding.md R109). -/

def execAdcImm (imm : Byte) (s : State) : Result := performAdc (.imm imm) 2 s
def execAdcZp (zp : Byte) (s : State) : Result := performAdc (.mem (.zp zp)) 3 s
def execAdcZpx (zp : Byte) (s : State) : Result := performAdc (.mem (.zpx zp)) 4 s
def execAdcAbs (addr : Addr) (s : State) : Result := performAdc (.mem (.abs addr)) 4 s
def execAdcAbx (addr : Addr) (s : State) : Result := performAdc (.mem (.abx addr)) 4 s
def execAdcAby (addr : Addr) (s : State) : Result := performAdc (.mem (.aby addr)) 4 s
def execAdcIzx (zp : Byte) (s : State) : Result := performAdc (.mem (.izx zp)) 6 s
def execAdcIzy (zp : Byte) (s : State) : Result := performAdc (.mem (.izy zp)) 5 s

/-- SBC (44_arithmetic.md R178, R177): subtract with borrow. -/
def performSbc (r : Source) (base : Nat) (s : State) : Result := readInstr r base Cpu.sbc s

/-! The rows of SBC (30_encoding.md R109). -/

def execSbcImm (imm : Byte) (s : State) : Result := performSbc (.imm imm) 2 s
def execSbcZp (zp : Byte) (s : State) : Result := performSbc (.mem (.zp zp)) 3 s
def execSbcZpx (zp : Byte) (s : State) : Result := performSbc (.mem (.zpx zp)) 4 s
def execSbcAbs (addr : Addr) (s : State) : Result := performSbc (.mem (.abs addr)) 4 s
def execSbcAbx (addr : Addr) (s : State) : Result := performSbc (.mem (.abx addr)) 4 s
def execSbcAby (addr : Addr) (s : State) : Result := performSbc (.mem (.aby addr)) 4 s
def execSbcIzx (zp : Byte) (s : State) : Result := performSbc (.mem (.izx zp)) 6 s
def execSbcIzy (zp : Byte) (s : State) : Result := performSbc (.mem (.izy zp)) 5 s

/-- CMP (44_arithmetic.md R179): flags of the register against the byte. -/
def Cpu.cmp (m : Byte) (c : Cpu) : Cpu := c.compare c.a m
@[inherit_doc Cpu.cmp] def performCmp (r : Source) (base : Nat) (s : State) : Result := readInstr r base Cpu.cmp s

/-! The rows of CMP (30_encoding.md R109). -/

def execCmpImm (imm : Byte) (s : State) : Result := performCmp (.imm imm) 2 s
def execCmpZp (zp : Byte) (s : State) : Result := performCmp (.mem (.zp zp)) 3 s
def execCmpZpx (zp : Byte) (s : State) : Result := performCmp (.mem (.zpx zp)) 4 s
def execCmpAbs (addr : Addr) (s : State) : Result := performCmp (.mem (.abs addr)) 4 s
def execCmpAbx (addr : Addr) (s : State) : Result := performCmp (.mem (.abx addr)) 4 s
def execCmpAby (addr : Addr) (s : State) : Result := performCmp (.mem (.aby addr)) 4 s
def execCmpIzx (zp : Byte) (s : State) : Result := performCmp (.mem (.izx zp)) 6 s
def execCmpIzy (zp : Byte) (s : State) : Result := performCmp (.mem (.izy zp)) 5 s

/-- CPX (44_arithmetic.md R180): flags of the register against the byte. -/
def Cpu.cpx (m : Byte) (c : Cpu) : Cpu := c.compare c.x m
@[inherit_doc Cpu.cpx] def performCpx (r : Source) (base : Nat) (s : State) : Result := readInstr r base Cpu.cpx s

/-! The rows of CPX (30_encoding.md R109). -/

def execCpxImm (imm : Byte) (s : State) : Result := performCpx (.imm imm) 2 s
def execCpxZp (zp : Byte) (s : State) : Result := performCpx (.mem (.zp zp)) 3 s
def execCpxAbs (addr : Addr) (s : State) : Result := performCpx (.mem (.abs addr)) 4 s

/-- CPY (44_arithmetic.md R181): flags of the register against the byte. -/
def Cpu.cpy (m : Byte) (c : Cpu) : Cpu := c.compare c.y m
@[inherit_doc Cpu.cpy] def performCpy (r : Source) (base : Nat) (s : State) : Result := readInstr r base Cpu.cpy s

/-! The rows of CPY (30_encoding.md R109). -/

def execCpyImm (imm : Byte) (s : State) : Result := performCpy (.imm imm) 2 s
def execCpyZp (zp : Byte) (s : State) : Result := performCpy (.mem (.zp zp)) 3 s
def execCpyAbs (addr : Addr) (s : State) : Result := performCpy (.mem (.abs addr)) 4 s

end Sys2Proof.Machine
end

