-- ==== Sys2Proof/Machine/IncDec.lean ====
section
/-! DEFINITION. INC, DEC, INX, INY, DEX, DEY (45_incdec.md).
Each table row has a meaning of its own: the operation, the row's mode with its operand bytes, and the
row's base cost. -/

namespace Sys2Proof.Machine

/-- INC (45_incdec.md R186) of a byte where its operand is. -/
def incAt (r : Resolution) (base : Nat) (s : State) : Result := modifyAt r base (fun _ c => c) (fun b _ => b + 1) s
/-- INC of a memory byte (45_incdec.md R186). -/
def performInc (m : MemOperand) (base : Nat) (s : State) : Result := incAt (inMemory m s) base s

/-! The rows of INC (30_encoding.md R109). -/

def execIncZp (zp : Byte) (s : State) : Result := performInc (.zp zp) 5 s
def execIncZpx (zp : Byte) (s : State) : Result := performInc (.zpx zp) 6 s
def execIncAbs (addr : Addr) (s : State) : Result := performInc (.abs addr) 6 s
def execIncAbx (addr : Addr) (s : State) : Result := performInc (.abx addr) 7 s

/-- DEC (45_incdec.md R187) of a byte where its operand is. -/
def decAt (r : Resolution) (base : Nat) (s : State) : Result := modifyAt r base (fun _ c => c) (fun b _ => b - 1) s
/-- DEC of a memory byte (45_incdec.md R187). -/
def performDec (m : MemOperand) (base : Nat) (s : State) : Result := decAt (inMemory m s) base s

/-! The rows of DEC (30_encoding.md R109). -/

def execDecZp (zp : Byte) (s : State) : Result := performDec (.zp zp) 5 s
def execDecZpx (zp : Byte) (s : State) : Result := performDec (.zpx zp) 6 s
def execDecAbs (addr : Addr) (s : State) : Result := performDec (.abs addr) 6 s
def execDecAbx (addr : Addr) (s : State) : Result := performDec (.abx addr) 7 s

/-- INX (45_incdec.md R188). -/
def performInx (base : Nat) (s : State) : Result := registerInstr base (fun c => (c.setX (c.x + 1)).setZN (c.x + 1)) s
@[inherit_doc performInx] def execInx (s : State) : Result := performInx 2 s

/-- INY (45_incdec.md R189). -/
def performIny (base : Nat) (s : State) : Result := registerInstr base (fun c => (c.setY (c.y + 1)).setZN (c.y + 1)) s
@[inherit_doc performIny] def execIny (s : State) : Result := performIny 2 s

/-- DEX (45_incdec.md R190). -/
def performDex (base : Nat) (s : State) : Result := registerInstr base (fun c => (c.setX (c.x - 1)).setZN (c.x - 1)) s
@[inherit_doc performDex] def execDex (s : State) : Result := performDex 2 s

/-- DEY (45_incdec.md R191). -/
def performDey (base : Nat) (s : State) : Result := registerInstr base (fun c => (c.setY (c.y - 1)).setZN (c.y - 1)) s
@[inherit_doc performDey] def execDey (s : State) : Result := performDey 2 s

end Sys2Proof.Machine
end

