-- ==== Sys2Proof/Machine/JumpBranch.lean ====
section
/-! DEFINITION. JMP, JSR, RTS and the eight conditional branches (47_jump_branch.md). -/

namespace Sys2Proof.Machine

/-- JMP to an effective address (47_jump_branch.md R206). -/
def performJmp (ea : Addr) (base : Nat) (s : State) : Result := .next ((s.mapCpu (·.setPc ea)).charge base)

/-- JMP absolute (47_jump_branch.md R206, 40_addressing.md R128). -/
def execJmpAbs (addr : Addr) (s : State) : Result := performJmp addr 3 s

/-- JMP indirect (47_jump_branch.md R206, 40_addressing.md R131). -/
def execJmpInd (ptr : Addr) (s : State) : Result :=
  let target := resolveIndirect ptr s
  performJmp target.1 5 target.2

/-- JSR (47_jump_branch.md R207): the address of the instruction's last byte is pushed. -/
def performJsr (ea : Addr) (base : Nat) (s : State) : Result :=
  .next (((pushAddr (s.cpu.pc - 1) s).mapCpu (·.setPc ea)).charge base)
@[inherit_doc performJsr] def execJsr (addr : Addr) (s : State) : Result := performJsr addr 6 s

/-- RTS (47_jump_branch.md R208): 1 is added to the pulled address. -/
def performRts (base : Nat) (s : State) : Result :=
  let target := pullAddr s
  .next ((target.2.mapCpu (·.setPc (target.1 + 1))).charge base)
@[inherit_doc performRts] def execRts (s : State) : Result := performRts 6 s

/-- BCC (47_jump_branch.md R210). -/
def performBcc (target : Addr) (base : Nat) (s : State) : Result := branchTo (!s.cpu.flag .c) base target s
@[inherit_doc performBcc] def execBcc (rel : Byte) (s : State) : Result := performBcc (branchTarget s.cpu.pc rel) 2 s

/-- BCS (47_jump_branch.md R211). -/
def performBcs (target : Addr) (base : Nat) (s : State) : Result := branchTo (s.cpu.flag .c) base target s
@[inherit_doc performBcs] def execBcs (rel : Byte) (s : State) : Result := performBcs (branchTarget s.cpu.pc rel) 2 s

/-- BEQ (47_jump_branch.md R212). -/
def performBeq (target : Addr) (base : Nat) (s : State) : Result := branchTo (s.cpu.flag .z) base target s
@[inherit_doc performBeq] def execBeq (rel : Byte) (s : State) : Result := performBeq (branchTarget s.cpu.pc rel) 2 s

/-- BNE (47_jump_branch.md R213). -/
def performBne (target : Addr) (base : Nat) (s : State) : Result := branchTo (!s.cpu.flag .z) base target s
@[inherit_doc performBne] def execBne (rel : Byte) (s : State) : Result := performBne (branchTarget s.cpu.pc rel) 2 s

/-- BMI (47_jump_branch.md R214). -/
def performBmi (target : Addr) (base : Nat) (s : State) : Result := branchTo (s.cpu.flag .n) base target s
@[inherit_doc performBmi] def execBmi (rel : Byte) (s : State) : Result := performBmi (branchTarget s.cpu.pc rel) 2 s

/-- BPL (47_jump_branch.md R215). -/
def performBpl (target : Addr) (base : Nat) (s : State) : Result := branchTo (!s.cpu.flag .n) base target s
@[inherit_doc performBpl] def execBpl (rel : Byte) (s : State) : Result := performBpl (branchTarget s.cpu.pc rel) 2 s

/-- BVC (47_jump_branch.md R216). -/
def performBvc (target : Addr) (base : Nat) (s : State) : Result := branchTo (!s.cpu.flag .v) base target s
@[inherit_doc performBvc] def execBvc (rel : Byte) (s : State) : Result := performBvc (branchTarget s.cpu.pc rel) 2 s

/-- BVS (47_jump_branch.md R217). -/
def performBvs (target : Addr) (base : Nat) (s : State) : Result := branchTo (s.cpu.flag .v) base target s
@[inherit_doc performBvs] def execBvs (rel : Byte) (s : State) : Result := performBvs (branchTarget s.cpu.pc rel) 2 s

end Sys2Proof.Machine
end

