-- ==== Sys2Proof/Machine/LoadStore.lean ====
section
/-! DEFINITION. LDA, LDX, LDY, STA, STX, STY (41_load_store.md).
Each table row has a meaning of its own: the operation, the row's mode with its operand bytes, and the
row's base cost. -/

namespace Sys2Proof.Machine

/-- LDA (41_load_store.md R141): the register takes the byte, Z and N are set from it. -/
def Cpu.lda (m : Byte) (c : Cpu) : Cpu := (c.setA m).setZN m
@[inherit_doc Cpu.lda] def performLda (r : Source) (base : Nat) (s : State) : Result := readInstr r base Cpu.lda s

/-! The rows of LDA (30_encoding.md R109). -/

def execLdaImm (imm : Byte) (s : State) : Result := performLda (.imm imm) 2 s
def execLdaZp (zp : Byte) (s : State) : Result := performLda (.mem (.zp zp)) 3 s
def execLdaZpx (zp : Byte) (s : State) : Result := performLda (.mem (.zpx zp)) 4 s
def execLdaAbs (addr : Addr) (s : State) : Result := performLda (.mem (.abs addr)) 4 s
def execLdaAbx (addr : Addr) (s : State) : Result := performLda (.mem (.abx addr)) 4 s
def execLdaAby (addr : Addr) (s : State) : Result := performLda (.mem (.aby addr)) 4 s
def execLdaIzx (zp : Byte) (s : State) : Result := performLda (.mem (.izx zp)) 6 s
def execLdaIzy (zp : Byte) (s : State) : Result := performLda (.mem (.izy zp)) 5 s

/-- LDX (41_load_store.md R142): the register takes the byte, Z and N are set from it. -/
def Cpu.ldx (m : Byte) (c : Cpu) : Cpu := (c.setX m).setZN m
@[inherit_doc Cpu.ldx] def performLdx (r : Source) (base : Nat) (s : State) : Result := readInstr r base Cpu.ldx s

/-! The rows of LDX (30_encoding.md R109). -/

def execLdxImm (imm : Byte) (s : State) : Result := performLdx (.imm imm) 2 s
def execLdxZp (zp : Byte) (s : State) : Result := performLdx (.mem (.zp zp)) 3 s
def execLdxZpy (zp : Byte) (s : State) : Result := performLdx (.mem (.zpy zp)) 4 s
def execLdxAbs (addr : Addr) (s : State) : Result := performLdx (.mem (.abs addr)) 4 s
def execLdxAby (addr : Addr) (s : State) : Result := performLdx (.mem (.aby addr)) 4 s

/-- LDY (41_load_store.md R143): the register takes the byte, Z and N are set from it. -/
def Cpu.ldy (m : Byte) (c : Cpu) : Cpu := (c.setY m).setZN m
@[inherit_doc Cpu.ldy] def performLdy (r : Source) (base : Nat) (s : State) : Result := readInstr r base Cpu.ldy s

/-! The rows of LDY (30_encoding.md R109). -/

def execLdyImm (imm : Byte) (s : State) : Result := performLdy (.imm imm) 2 s
def execLdyZp (zp : Byte) (s : State) : Result := performLdy (.mem (.zp zp)) 3 s
def execLdyZpx (zp : Byte) (s : State) : Result := performLdy (.mem (.zpx zp)) 4 s
def execLdyAbs (addr : Addr) (s : State) : Result := performLdy (.mem (.abs addr)) 4 s
def execLdyAbx (addr : Addr) (s : State) : Result := performLdy (.mem (.abx addr)) 4 s

/-- STA (41_load_store.md R144): the register is written to the effective address. -/
def performSta (m : MemOperand) (base : Nat) (s : State) : Result := storeInstr m base s.cpu.a s

/-! The rows of STA (30_encoding.md R109). -/

def execStaZp (zp : Byte) (s : State) : Result := performSta (.zp zp) 3 s
def execStaZpx (zp : Byte) (s : State) : Result := performSta (.zpx zp) 4 s
def execStaAbs (addr : Addr) (s : State) : Result := performSta (.abs addr) 4 s
def execStaAbx (addr : Addr) (s : State) : Result := performSta (.abx addr) 5 s
def execStaAby (addr : Addr) (s : State) : Result := performSta (.aby addr) 5 s
def execStaIzx (zp : Byte) (s : State) : Result := performSta (.izx zp) 6 s
def execStaIzy (zp : Byte) (s : State) : Result := performSta (.izy zp) 6 s

/-- STX (41_load_store.md R145): the register is written to the effective address. -/
def performStx (m : MemOperand) (base : Nat) (s : State) : Result := storeInstr m base s.cpu.x s

/-! The rows of STX (30_encoding.md R109). -/

def execStxZp (zp : Byte) (s : State) : Result := performStx (.zp zp) 3 s
def execStxZpy (zp : Byte) (s : State) : Result := performStx (.zpy zp) 4 s
def execStxAbs (addr : Addr) (s : State) : Result := performStx (.abs addr) 4 s

/-- STY (41_load_store.md R146): the register is written to the effective address. -/
def performSty (m : MemOperand) (base : Nat) (s : State) : Result := storeInstr m base s.cpu.y s

/-! The rows of STY (30_encoding.md R109). -/

def execStyZp (zp : Byte) (s : State) : Result := performSty (.zp zp) 3 s
def execStyZpx (zp : Byte) (s : State) : Result := performSty (.zpx zp) 4 s
def execStyAbs (addr : Addr) (s : State) : Result := performSty (.abs addr) 4 s

end Sys2Proof.Machine
end

