-- ==== Sys2Proof/Machine/Logical.lean ====
section
/-! DEFINITION. AND, ORA, EOR, BIT (43_logical.md).
Each table row has a meaning of its own: the operation, the row's mode with its operand bytes, and the
row's base cost. -/

namespace Sys2Proof.Machine

/-- AND (43_logical.md R166): bitwise and with the accumulator. -/
def Cpu.and (m : Byte) (c : Cpu) : Cpu := (c.setA (c.a &&& m)).setZN (c.a &&& m)
@[inherit_doc Cpu.and] def performAnd (r : Source) (base : Nat) (s : State) : Result := readInstr r base Cpu.and s

/-! The rows of AND (30_encoding.md R109). -/

def execAndImm (imm : Byte) (s : State) : Result := performAnd (.imm imm) 2 s
def execAndZp (zp : Byte) (s : State) : Result := performAnd (.mem (.zp zp)) 3 s
def execAndZpx (zp : Byte) (s : State) : Result := performAnd (.mem (.zpx zp)) 4 s
def execAndAbs (addr : Addr) (s : State) : Result := performAnd (.mem (.abs addr)) 4 s
def execAndAbx (addr : Addr) (s : State) : Result := performAnd (.mem (.abx addr)) 4 s
def execAndAby (addr : Addr) (s : State) : Result := performAnd (.mem (.aby addr)) 4 s
def execAndIzx (zp : Byte) (s : State) : Result := performAnd (.mem (.izx zp)) 6 s
def execAndIzy (zp : Byte) (s : State) : Result := performAnd (.mem (.izy zp)) 5 s

/-- ORA (43_logical.md R167): bitwise or with the accumulator. -/
def Cpu.ora (m : Byte) (c : Cpu) : Cpu := (c.setA (c.a ||| m)).setZN (c.a ||| m)
@[inherit_doc Cpu.ora] def performOra (r : Source) (base : Nat) (s : State) : Result := readInstr r base Cpu.ora s

/-! The rows of ORA (30_encoding.md R109). -/

def execOraImm (imm : Byte) (s : State) : Result := performOra (.imm imm) 2 s
def execOraZp (zp : Byte) (s : State) : Result := performOra (.mem (.zp zp)) 3 s
def execOraZpx (zp : Byte) (s : State) : Result := performOra (.mem (.zpx zp)) 4 s
def execOraAbs (addr : Addr) (s : State) : Result := performOra (.mem (.abs addr)) 4 s
def execOraAbx (addr : Addr) (s : State) : Result := performOra (.mem (.abx addr)) 4 s
def execOraAby (addr : Addr) (s : State) : Result := performOra (.mem (.aby addr)) 4 s
def execOraIzx (zp : Byte) (s : State) : Result := performOra (.mem (.izx zp)) 6 s
def execOraIzy (zp : Byte) (s : State) : Result := performOra (.mem (.izy zp)) 5 s

/-- EOR (43_logical.md R168): bitwise exclusive or with the accumulator. -/
def Cpu.eor (m : Byte) (c : Cpu) : Cpu := (c.setA (c.a ^^^ m)).setZN (c.a ^^^ m)
@[inherit_doc Cpu.eor] def performEor (r : Source) (base : Nat) (s : State) : Result := readInstr r base Cpu.eor s

/-! The rows of EOR (30_encoding.md R109). -/

def execEorImm (imm : Byte) (s : State) : Result := performEor (.imm imm) 2 s
def execEorZp (zp : Byte) (s : State) : Result := performEor (.mem (.zp zp)) 3 s
def execEorZpx (zp : Byte) (s : State) : Result := performEor (.mem (.zpx zp)) 4 s
def execEorAbs (addr : Addr) (s : State) : Result := performEor (.mem (.abs addr)) 4 s
def execEorAbx (addr : Addr) (s : State) : Result := performEor (.mem (.abx addr)) 4 s
def execEorAby (addr : Addr) (s : State) : Result := performEor (.mem (.aby addr)) 4 s
def execEorIzx (zp : Byte) (s : State) : Result := performEor (.mem (.izx zp)) 6 s
def execEorIzy (zp : Byte) (s : State) : Result := performEor (.mem (.izy zp)) 5 s

/-- BIT (43_logical.md R169): flags only. -/
def performBit (r : Source) (base : Nat) (s : State) : Result := readInstr r base Cpu.bitTest s

/-! The rows of BIT (30_encoding.md R109). -/

def execBitZp (zp : Byte) (s : State) : Result := performBit (.mem (.zp zp)) 3 s
def execBitAbs (addr : Addr) (s : State) : Result := performBit (.mem (.abs addr)) 4 s

end Sys2Proof.Machine
end

