-- ==== Sys2Proof/Machine/ShiftRotate.lean ====
section
/-! DEFINITION. ASL, LSR, ROL, ROR (46_shift_rotate.md).
Each table row has a meaning of its own: the operation, the row's mode with its operand bytes, and the
row's base cost. -/

namespace Sys2Proof.Machine

/-- A shift or rotate of the accumulator (46_shift_rotate.md R195): `C` takes the bit shifted out, `A` the result,
Z and N are set from it. -/
def shiftAcc (shift : Bool → Byte → ShiftResult) (base : Nat) (s : State) : Result :=
  registerInstr base (fun c =>
    let r := shift (c.flag .c) c.a
    ((c.setFlag .c r.carry).setA r.value).setZN r.value) s

/-- A shift or rotate of a byte where its operand is (46_shift_rotate.md R195): `C` is written before the byte is written
back. -/
def shiftAt (shift : Bool → Byte → ShiftResult) (r : Resolution) (base : Nat) (s : State) : Result :=
  modifyAt r base (fun b c => c.setFlag .c (shift (c.flag .c) b).carry) (fun b c => (shift (c.flag .c) b).value) s

/-- A shift or rotate of a memory byte (46_shift_rotate.md R195). -/
def shiftMem (shift : Bool → Byte → ShiftResult) (m : MemOperand) (base : Nat) (s : State) : Result :=
  shiftAt shift (inMemory m s) base s

/-- ASL in its two forms (46_shift_rotate.md R196). -/
def performAslAcc (base : Nat) (s : State) : Result := shiftAcc shiftAsl base s
@[inherit_doc performAslAcc]
def performAslMem (m : MemOperand) (base : Nat) (s : State) : Result := shiftMem shiftAsl m base s

/-! The rows of ASL (30_encoding.md R109). -/

def execAslAcc (s : State) : Result := performAslAcc 2 s
def execAslZp (zp : Byte) (s : State) : Result := performAslMem (.zp zp) 5 s
def execAslZpx (zp : Byte) (s : State) : Result := performAslMem (.zpx zp) 6 s
def execAslAbs (addr : Addr) (s : State) : Result := performAslMem (.abs addr) 6 s
def execAslAbx (addr : Addr) (s : State) : Result := performAslMem (.abx addr) 7 s

/-- LSR in its two forms (46_shift_rotate.md R197). -/
def performLsrAcc (base : Nat) (s : State) : Result := shiftAcc shiftLsr base s
@[inherit_doc performLsrAcc]
def performLsrMem (m : MemOperand) (base : Nat) (s : State) : Result := shiftMem shiftLsr m base s

/-! The rows of LSR (30_encoding.md R109). -/

def execLsrAcc (s : State) : Result := performLsrAcc 2 s
def execLsrZp (zp : Byte) (s : State) : Result := performLsrMem (.zp zp) 5 s
def execLsrZpx (zp : Byte) (s : State) : Result := performLsrMem (.zpx zp) 6 s
def execLsrAbs (addr : Addr) (s : State) : Result := performLsrMem (.abs addr) 6 s
def execLsrAbx (addr : Addr) (s : State) : Result := performLsrMem (.abx addr) 7 s

/-- ROL in its two forms (46_shift_rotate.md R198). -/
def performRolAcc (base : Nat) (s : State) : Result := shiftAcc shiftRol base s
@[inherit_doc performRolAcc]
def performRolMem (m : MemOperand) (base : Nat) (s : State) : Result := shiftMem shiftRol m base s

/-! The rows of ROL (30_encoding.md R109). -/

def execRolAcc (s : State) : Result := performRolAcc 2 s
def execRolZp (zp : Byte) (s : State) : Result := performRolMem (.zp zp) 5 s
def execRolZpx (zp : Byte) (s : State) : Result := performRolMem (.zpx zp) 6 s
def execRolAbs (addr : Addr) (s : State) : Result := performRolMem (.abs addr) 6 s
def execRolAbx (addr : Addr) (s : State) : Result := performRolMem (.abx addr) 7 s

/-- ROR in its two forms (46_shift_rotate.md R199). -/
def performRorAcc (base : Nat) (s : State) : Result := shiftAcc shiftRor base s
@[inherit_doc performRorAcc]
def performRorMem (m : MemOperand) (base : Nat) (s : State) : Result := shiftMem shiftRor m base s

/-! The rows of ROR (30_encoding.md R109). -/

def execRorAcc (s : State) : Result := performRorAcc 2 s
def execRorZp (zp : Byte) (s : State) : Result := performRorMem (.zp zp) 5 s
def execRorZpx (zp : Byte) (s : State) : Result := performRorMem (.zpx zp) 6 s
def execRorAbs (addr : Addr) (s : State) : Result := performRorMem (.abs addr) 6 s
def execRorAbx (addr : Addr) (s : State) : Result := performRorMem (.abx addr) 7 s

end Sys2Proof.Machine
end

