-- ==== Sys2Proof/Machine/StatusFlags.lean ====
section
/-! DEFINITION. CLC, SEC, CLI, SEI, CLD, SED, CLV (48_flags.md). -/

namespace Sys2Proof.Machine

/-- CLC (48_flags.md R226). -/
def performClc (base : Nat) (s : State) : Result := registerInstr base (·.setFlag .c false) s
@[inherit_doc performClc] def execClc (s : State) : Result := performClc 2 s

/-- SEC (48_flags.md R227). -/
def performSec (base : Nat) (s : State) : Result := registerInstr base (·.setFlag .c true) s
@[inherit_doc performSec] def execSec (s : State) : Result := performSec 2 s

/-- CLI (48_flags.md R228). -/
def performCli (base : Nat) (s : State) : Result := registerInstr base (·.setFlag .i false) s
@[inherit_doc performCli] def execCli (s : State) : Result := performCli 2 s

/-- SEI (48_flags.md R229). -/
def performSei (base : Nat) (s : State) : Result := registerInstr base (·.setFlag .i true) s
@[inherit_doc performSei] def execSei (s : State) : Result := performSei 2 s

/-- CLD (48_flags.md R230). -/
def performCld (base : Nat) (s : State) : Result := registerInstr base (·.setFlag .d false) s
@[inherit_doc performCld] def execCld (s : State) : Result := performCld 2 s

/-- SED (48_flags.md R231). -/
def performSed (base : Nat) (s : State) : Result := registerInstr base (·.setFlag .d true) s
@[inherit_doc performSed] def execSed (s : State) : Result := performSed 2 s

/-- CLV (48_flags.md R232). -/
def performClv (base : Nat) (s : State) : Result := registerInstr base (·.setFlag .v false) s
@[inherit_doc performClv] def execClv (s : State) : Result := performClv 2 s

end Sys2Proof.Machine
end

