-- ==== Sys2Proof/Machine/TransferStack.lean ====
section
/-! DEFINITION. TAX, TAY, TXA, TYA, TSX, TXS, PHA, PHP, PLA, PLP (42_transfer_stack.md). -/

namespace Sys2Proof.Machine

/-- TAX (42_transfer_stack.md R151). -/
def performTax (base : Nat) (s : State) : Result := registerInstr base (fun c => (c.setX c.a).setZN c.a) s
@[inherit_doc performTax] def execTax (s : State) : Result := performTax 2 s

/-- TAY (42_transfer_stack.md R152). -/
def performTay (base : Nat) (s : State) : Result := registerInstr base (fun c => (c.setY c.a).setZN c.a) s
@[inherit_doc performTay] def execTay (s : State) : Result := performTay 2 s

/-- TXA (42_transfer_stack.md R153). -/
def performTxa (base : Nat) (s : State) : Result := registerInstr base (fun c => (c.setA c.x).setZN c.x) s
@[inherit_doc performTxa] def execTxa (s : State) : Result := performTxa 2 s

/-- TYA (42_transfer_stack.md R154). -/
def performTya (base : Nat) (s : State) : Result := registerInstr base (fun c => (c.setA c.y).setZN c.y) s
@[inherit_doc performTya] def execTya (s : State) : Result := performTya 2 s

/-- TSX (42_transfer_stack.md R155). -/
def performTsx (base : Nat) (s : State) : Result := registerInstr base (fun c => (c.setX c.sp).setZN c.sp) s
@[inherit_doc performTsx] def execTsx (s : State) : Result := performTsx 2 s

/-- TXS (42_transfer_stack.md R156: no flag). -/
def performTxs (base : Nat) (s : State) : Result := registerInstr base (fun c => c.setSp c.x) s
@[inherit_doc performTxs] def execTxs (s : State) : Result := performTxs 2 s

/-- PHA (42_transfer_stack.md R157). -/
def performPha (base : Nat) (s : State) : Result := .next ((push s.cpu.a s).charge base)
@[inherit_doc performPha] def execPha (s : State) : Result := performPha 3 s

/-- PHP (42_transfer_stack.md R158: bits 4 and 5 set in the pushed copy). -/
def performPhp (base : Nat) (s : State) : Result := .next ((push (pushedStatus s.cpu.p) s).charge base)
@[inherit_doc performPhp] def execPhp (s : State) : Result := performPhp 3 s

/-- PLA (42_transfer_stack.md R159). -/
def performPla (base : Nat) (s : State) : Result :=
  let b := pull s
  .next ((b.2.mapCpu fun c => (c.setA b.1).setZN b.1).charge base)
@[inherit_doc performPla] def execPla (s : State) : Result := performPla 4 s

/-- PLP (42_transfer_stack.md R160): bits 4 and 5 of the pulled byte are ignored. -/
def performPlp (base : Nat) (s : State) : Result :=
  let b := pull s
  .next ((b.2.mapCpu fun c => c.setP (pulledStatus b.1)).charge base)
@[inherit_doc performPlp] def execPlp (s : State) : Result := performPlp 4 s

end Sys2Proof.Machine
end

