-- ==== Sys2Proof/Machine/Cost.lean ====
section
/-! DEFINITION. The cost of an instruction by operation and mode (70_reset_and_hazards.md R421, R422). -/

namespace Sys2Proof.Machine

/-- The three columns of the cost table 70_reset_and_hazards.md R422 and its last one. -/
inductive CostKind where
  | read | store | modify | other
  deriving DecidableEq, Repr

/-- The column of an operation (70_reset_and_hazards.md R422). -/
def costKind : Operation → CostKind
  | .sta | .stx | .sty => .store
  | .inc | .dec | .asl | .lsr | .rol | .ror => .modify
  | .lda | .ldx | .ldy | .and | .ora | .eor | .bit | .adc | .sbc | .cmp | .cpx | .cpy => .read
  | _ => .other

/-- The implied-mode and jump entries of the column "other" (70_reset_and_hazards.md R422). -/
def otherCost : Operation → Mode → Nat
  | .pha, _ | .php, _ => 3
  | .pla, _ | .plp, _ => 4
  | .rts, _ | .rti, _ => 6
  | .brk, _ => 7
  | .jmp, .ind => 5
  | .jmp, _ => 3
  | .jsr, _ => 6
  | _, _ => 2

/-- The base cost by mode and kind (70_reset_and_hazards.md R422). -/
def patternCost (op : Operation) (mode : Mode) : Nat :=
  match costKind op, mode with
  | .other, mode => otherCost op mode
  | _, .acc => 2
  | _, .imm => 2
  | .modify, .zp => 5
  | _, .zp => 3
  | .modify, .zpx | .modify, .zpy | .modify, .abs => 6
  | _, .zpx | _, .zpy | _, .abs => 4
  | .read, .abx | .read, .aby => 4
  | .store, .abx | .store, .aby => 5
  | .modify, .abx | .modify, .aby => 7
  | _, .izx => 6
  | .read, .izy => 5
  | _, .izy => 6
  | _, _ => 2

/-- `PageCrossCosts(operation)` (70_reset_and_hazards.md R421). -/
def pageCrossCosts : Operation → Bool
  | .adc | .and | .cmp | .eor | .lda | .ldx | .ldy | .ora | .sbc => true
  | _ => false

end Sys2Proof.Machine
end

