-- ==== Sys2Proof/Machine/System.lean ====
section
/-! DEFINITION. BRK, NOP, RTI (49_system.md). -/

namespace Sys2Proof.Machine

/-- BRK (49_system.md R235). -/
def performBrk (base : Nat) (s : State) : Result := .next ((enterBrk s).charge base)
@[inherit_doc performBrk] def execBrk (s : State) : Result := performBrk 7 s

/-- NOP (49_system.md R236): only `pc` has advanced. -/
def performNop (base : Nat) (s : State) : Result := .next (s.charge base)
@[inherit_doc performNop] def execNop (s : State) : Result := performNop 2 s

/-- RTI (49_system.md R237). -/
def performRti (base : Nat) (s : State) : Result := .next ((returnFromInterrupt s).charge base)
@[inherit_doc performRti] def execRti (s : State) : Result := performRti 6 s

end Sys2Proof.Machine
end

