-- ==== Sys2Proof/Machine/UndefinedOp.lean ====
section
/-! DEFINITION. The undefined opcodes: they run the table entry `UNDEF_OP`, a parameter that may be any operation in any
mode at any cost (00_scope.md R8, 30_encoding.md R110), as 40_addressing.md R139 runs a table entry. -/

namespace Sys2Proof.Machine

/-- Resolution of a memory mode with one operand byte, whose resolution is `resolve` of it. -/
def resolveByte (mk : Byte → MemOperand) (s : State) : Resolution × State :=
  let b1 := fetchByte s
  (inMemory (mk b1.1) b1.2, b1.2)

/-- Resolution of a memory mode with two operand bytes, whose resolution is `resolve` of them. -/
def resolveAddr (mk : Addr → MemOperand) (s : State) : Resolution × State :=
  let w := fetchAddr s
  (inMemory (mk w.1) w.2, w.2)

/-- `Resolve(mode)`: the operand bytes are read at `pc` and the mode's triple is returned (40_addressing.md R120 to R133).
An immediate operand byte is not read here but in the fetch stage (R123). -/
def resolveMode (mode : Mode) (s : State) : Resolution × State :=
  match mode with
  | .imp => ({ ea := 0, crossed := false, tag := .none }, s)
  | .acc => ({ ea := 0, crossed := false, tag := .acc }, s)
  | .imm => ({ ea := s.cpu.pc, crossed := false, tag := .mem }, s.mapCpu (·.setPc (s.cpu.pc + 1)))
  | .zp => resolveByte .zp s
  | .zpx => resolveByte .zpx s
  | .zpy => resolveByte .zpy s
  | .rel =>
    let b1 := fetchByte s
    ({ ea := branchTarget b1.2.cpu.pc b1.1, crossed := false, tag := .mem }, b1.2)
  | .abs => resolveAddr .abs s
  | .abx => resolveAddr .abx s
  | .aby => resolveAddr .aby s
  | .ind =>
    let ptr := fetchAddr s
    let target := resolveIndirect ptr.1 ptr.2
    ({ ea := target.1, crossed := false, tag := .mem }, target.2)
  | .izx => resolveByte .izx s
  | .izy => resolveByte .izy s

/-- `Fetch` and `Operate` (40_addressing.md R134, R139): what each operation does with a resolved operand, `base` its cost
but for the extra cycles of a taken branch. A branch goes to the effective address (R127), jumps and calls likewise.
The operations that take no operand ignore it. -/
def operate (operation : Operation) (r : Resolution) (base : Nat) (s : State) : Result :=
  match operation with
  | .lda => readAt r base Cpu.lda s
  | .ldx => readAt r base Cpu.ldx s
  | .ldy => readAt r base Cpu.ldy s
  | .sta => storeAt r base s.cpu.a s
  | .stx => storeAt r base s.cpu.x s
  | .sty => storeAt r base s.cpu.y s
  | .tax => performTax base s
  | .tay => performTay base s
  | .txa => performTxa base s
  | .tya => performTya base s
  | .tsx => performTsx base s
  | .txs => performTxs base s
  | .pha => performPha base s
  | .php => performPhp base s
  | .pla => performPla base s
  | .plp => performPlp base s
  | .and => readAt r base Cpu.and s
  | .ora => readAt r base Cpu.ora s
  | .eor => readAt r base Cpu.eor s
  | .bit => readAt r base Cpu.bitTest s
  | .adc => readAt r base Cpu.adc s
  | .sbc => readAt r base Cpu.sbc s
  | .cmp => readAt r base Cpu.cmp s
  | .cpx => readAt r base Cpu.cpx s
  | .cpy => readAt r base Cpu.cpy s
  | .inc => incAt r base s
  | .dec => decAt r base s
  | .inx => performInx base s
  | .iny => performIny base s
  | .dex => performDex base s
  | .dey => performDey base s
  | .asl => shiftAt shiftAsl r base s
  | .lsr => shiftAt shiftLsr r base s
  | .rol => shiftAt shiftRol r base s
  | .ror => shiftAt shiftRor r base s
  | .jmp => performJmp r.ea base s
  | .jsr => performJsr r.ea base s
  | .rts => performRts base s
  | .bcc => performBcc r.ea base s
  | .bcs => performBcs r.ea base s
  | .beq => performBeq r.ea base s
  | .bne => performBne r.ea base s
  | .bmi => performBmi r.ea base s
  | .bpl => performBpl r.ea base s
  | .bvc => performBvc r.ea base s
  | .bvs => performBvs r.ea base s
  | .clc => performClc base s
  | .sec => performSec base s
  | .cli => performCli base s
  | .sei => performSei base s
  | .cld => performCld base s
  | .sed => performSed base s
  | .clv => performClv base s
  | .brk => performBrk base s
  | .nop => performNop base s
  | .rti => performRti base s
  | .und => performNop base s

/-- The page-cross cycle of an operation with a resolved operand (40_addressing.md R139, 70_reset_and_hazards.md R421). -/
def crossPenalty (operation : Operation) (r : Resolution) : Nat :=
  if r.crossed && pageCrossCosts operation then 1 else 0

/-- Executing a table entry, its opcode byte fetched (40_addressing.md R139). -/
def executeEntry (operation : Operation) (mode : Mode) (cycles : Nat) (s : State) : Result :=
  let r := resolveMode mode s
  operate operation r.1 (cycles + crossPenalty operation r.1) r.2

/-- An undefined opcode: the table entry `UNDEF_OP`, by default a no-op in implied mode of 2 cycles
(49_system.md R238, 30_encoding.md R110, log entry 7). -/
def execUnd (_opcode : Byte) (s : State) : Result :=
  let u := s.fixed.params.undefOp
  executeEntry u.operation u.mode u.cycles s

end Sys2Proof.Machine
end

