-- ==== Sys2Proof/Machine/PpuRendering.lean ====
section
/-! DEFINITION. The PPU scanline state machine: background pipeline, sprites, pixel composition, status events
(51_ppu_rendering.md). -/

namespace Sys2Proof.Machine

/-! Background pipeline -/

/-- `BgShift()` (51_ppu_rendering.md R294). -/
def bgShift (p : Ppu) : Ppu :=
  { p with bgPatLo := p.bgPatLo <<< 1, bgPatHi := p.bgPatHi <<< 1,
           bgAttrLo := p.bgAttrLo <<< 1, bgAttrHi := p.bgAttrHi <<< 1 }

/-- A shift register with its low byte replaced (51_ppu_rendering.md R296). -/
def loadLow (reg : BitVec 16) (b : Byte) : BitVec 16 := (reg &&& 0xFF00) ||| b.setWidth 16

/-- One bit of the 2-bit palette number as eight equal bits (51_ppu_rendering.md R296). -/
def spreadBit (b : Bool) : Byte := if b then 0xFF else 0x00

/-- `BgLoad()` (51_ppu_rendering.md R296). -/
def bgLoad (p : Ppu) : Ppu :=
  { p with bgPatLo := loadLow p.bgPatLo p.nextPatLo, bgPatHi := loadLow p.bgPatHi p.nextPatHi,
           bgAttrLo := loadLow p.bgAttrLo (spreadBit (p.nextAttr.getLsbD 0)),
           bgAttrHi := loadLow p.bgAttrHi (spreadBit (p.nextAttr.getLsbD 1)) }

/-- The nametable fetch address (51_ppu_rendering.md R297). -/
def nametableAddr (v : BitVec 15) : Addr := 0x2000 ||| (vramAddr v &&& 0x0FFF)

/-- `FetchNT()` (51_ppu_rendering.md R297). -/
def fetchNt (fixed : Fixed) (p : Ppu) : Ppu := { p with nextTileId := ppuRead fixed p (nametableAddr p.v) }

/-- The attribute fetch address (51_ppu_rendering.md R298). -/
def attributeAddr (v : BitVec 15) : Addr :=
  let v := vramAddr v
  0x23C0 ||| (v &&& 0x0C00) ||| ((v >>> 4) &&& 0x38) ||| ((v >>> 2) &&& 0x07)

/-- The quadrant of an attribute byte: 0, 2, 4 or 6 (51_ppu_rendering.md R298). -/
def attributeShift (v : BitVec 15) : Nat := (((v >>> 4) &&& 4) ||| (v &&& 2)).toNat

/-- `FetchAT()` (51_ppu_rendering.md R298). -/
def fetchAt (fixed : Fixed) (p : Ppu) : Ppu :=
  { p with nextAttr := (ppuRead fixed p (attributeAddr p.v) >>> attributeShift p.v).setWidth 2 }

/-- `v[14:12]`, fine Y (10_state.md R32). -/
def fineY (v : BitVec 15) : BitVec 3 := v.extractLsb' 12 3

/-- `v[9:5]`, coarse Y (10_state.md R32). -/
def coarseY (v : BitVec 15) : BitVec 5 := v.extractLsb' 5 5

/-- `v[4:0]`, coarse X (10_state.md R32). -/
def coarseX (v : BitVec 15) : BitVec 5 := v.extractLsb' 0 5

/-- A pattern table base: $0000 or $1000. -/
def patternTable (second : Bool) : Addr := if second then 0x1000 else 0x0000

/-- The background pattern address (51_ppu_rendering.md R299). -/
def bgPatternAddr (p : Ppu) : Addr :=
  patternTable (p.ctrl.getLsbD 4) ||| (p.nextTileId.setWidth 16 <<< 4) ||| (fineY p.v).setWidth 16

/-- `FetchPatLo()` (51_ppu_rendering.md R299). -/
def fetchPatLo (fixed : Fixed) (p : Ppu) : Ppu := { p with nextPatLo := ppuRead fixed p (bgPatternAddr p) }

/-- `FetchPatHi()` (51_ppu_rendering.md R299). -/
def fetchPatHi (fixed : Fixed) (p : Ppu) : Ppu := { p with nextPatHi := ppuRead fixed p (bgPatternAddr p + 8) }

/-- `IncX()` on `v` (51_ppu_rendering.md R300). -/
def incXv (v : BitVec 15) : BitVec 15 := if coarseX v = 31 then (v &&& 0x7FE0) ^^^ 0x0400 else v + 1

/-- `IncY()` on `v` (51_ppu_rendering.md R301). -/
def incYv (v : BitVec 15) : BitVec 15 :=
  if (fineY v).toNat < 7 then v + 0x1000
  else
    let v1 := v &&& 0x0FFF
    let cy := coarseY v1
    let v2 := if cy = 29 then v1 ^^^ 0x0800 else v1
    let cy2 : BitVec 5 := if cy = 29 then 0 else if cy = 31 then 0 else cy + 1
    (v2 &&& 0x7C1F) ||| (cy2.setWidth 15 <<< 5)

/-- `ResetX()` on `v` (51_ppu_rendering.md R302). -/
def resetXv (v t : BitVec 15) : BitVec 15 := (v &&& 0x7BE0) ||| (t &&& 0x041F)

/-- `ResetY()` on `v` (51_ppu_rendering.md R303). -/
def resetYv (v t : BitVec 15) : BitVec 15 := (v &&& 0x041F) ||| (t &&& 0x7BE0)

/-- The fetch and increment of a sub-cycle of the 8-cycle group (51_ppu_rendering.md R291 lines 6 to 10, R295). -/
def bgSubCycle (fixed : Fixed) (sub : Nat) (p : Ppu) : Ppu :=
  match sub with
  | 0 => fetchNt fixed (bgLoad p)
  | 2 => fetchAt fixed p
  | 4 => fetchPatLo fixed p
  | 6 => fetchPatHi fixed p
  | 7 => { p with v := incXv p.v }
  | _ => p

/-- The background pipeline and the address resets of one cycle of a rendering line (51_ppu_rendering.md R291 lines 4
to 14, R307). -/
def renderCycle (fixed : Fixed) (p : Ppu) : Ppu :=
  let s := p.scanline
  let c := p.cycle
  let p := if c ≤ 255 ∨ (320 ≤ c ∧ c ≤ 335) then bgSubCycle fixed (c % 8) (bgShift p) else p
  let p := if c = 255 then { p with v := incYv p.v } else p
  let p := if c = 256 then { p with v := resetXv p.v p.t } else p
  let p := if 256 ≤ c ∧ c ≤ 319 then { p with oamAddr := 0 } else p
  if s = -1 ∧ 280 ≤ c ∧ c ≤ 304 then { p with v := resetYv p.v p.t } else p

/-! Sprites -/

/-- Byte `k` of OAM entry `n` (10_state.md R35). -/
def oamByte (p : Ppu) (n k : Nat) : Byte := Memory.read p.oam (4 * n + k)

/-- The sprite height `h` (51_ppu_rendering.md R310). -/
def Ppu.spriteHeight (p : Ppu) : Int := if p.ctrl.getLsbD 5 then 16 else 8

/-- `d` of OAM entry `n`: the scanline less the entry's Y, as integers (51_ppu_rendering.md R310). -/
def spriteRow (p : Ppu) (n : Nat) : Int := p.scanline - (oamByte p n 0).toNat

/-- OAM entry `n` matches on the current scanline (51_ppu_rendering.md R310, R311). -/
def spriteMatches (p : Ppu) (n : Nat) : Bool := decide (0 ≤ spriteRow p n) && decide (spriteRow p n < p.spriteHeight)

/-- Secondary OAM cleared (51_ppu_rendering.md R310). -/
def clearSecOam (m : Memory) : Memory := (List.range 32).foldl (fun m k => Memory.write m k 0xFF) m

/-- OAM entry `n` copied to entry `i` of secondary OAM (51_ppu_rendering.md R310). -/
def copyEntry (p : Ppu) (n i : Nat) : Memory :=
  (List.range 4).foldl (fun m k => Memory.write m (4 * i + k) (oamByte p n k)) p.secOam

/-- The scan of OAM entries (51_ppu_rendering.md R310): it stops at the ninth match. -/
def scanOam : List Nat → Ppu → Ppu
  | [], p => p
  | n :: rest, p =>
    if spriteMatches p n then
      if p.spriteCount < 8 then
        scanOam rest { p with secOam := copyEntry p n p.spriteCount, spr0Next := p.spr0Next || decide (n = 0),
                              spriteCount := p.spriteCount + 1 }
      else { p with status := p.status ||| 0x20 }
    else scanOam rest p

/-- `SpriteEvaluate()` (51_ppu_rendering.md R309, R310). -/
def spriteEvaluate (p : Ppu) : Ppu :=
  scanOam (List.range 64) { p with secOam := clearSecOam p.secOam, spriteCount := 0, spr0Next := false }

/-- `Reverse8(b)` (51_ppu_rendering.md R314). -/
def reverse8 (b : Byte) : Byte := b.reverse

/-- `SpritePatternAddr(tile, attr, d)` (51_ppu_rendering.md R313). -/
def spritePatternAddr (ctrl tile attr : Byte) (d : Int) : Addr :=
  if ctrl.getLsbD 5 then
    let row := BitVec.ofInt 16 (if attr.getLsbD 7 then 15 - d else d)
    let idx : Addr := (tile &&& 0xFE).setWidth 16 + (if 8 ≤ row.toNat then 1 else 0)
    patternTable (tile.getLsbD 0) ||| (idx <<< 4) ||| (row &&& 7)
  else
    let row := BitVec.ofInt 16 (if attr.getLsbD 7 then 7 - d else d)
    patternTable (ctrl.getLsbD 3) ||| (tile.setWidth 16 <<< 4) ||| row

/-- The shadow slot fetched for entry `i` of secondary OAM (51_ppu_rendering.md R312). -/
def fetchSlot (fixed : Fixed) (p : Ppu) (i : Nat) : SpriteSlot :=
  let byte := fun k => Memory.read p.secOam (4 * i + k)
  let attr := byte 2
  let addr := spritePatternAddr p.ctrl (byte 1) attr (p.scanline - (byte 0).toNat)
  let lo := ppuRead fixed p addr
  let hi := ppuRead fixed p (addr + 8)
  { patLo := if attr.getLsbD 6 then reverse8 lo else lo,
    patHi := if attr.getLsbD 6 then reverse8 hi else hi,
    attr := attr, x := byte 3 }

/-- `SpriteFetch()` (51_ppu_rendering.md R312). -/
def spriteFetch (fixed : Fixed) (p : Ppu) : Ppu :=
  { p with
    slots := (List.range 8).map fun i => if i < p.spriteCount then fetchSlot fixed p i else SpriteSlot.cleared,
    spr0Line := p.spr0Next }

/-- `SpriteStep()` on one slot (51_ppu_rendering.md R316). -/
def stepSlot (q : SpriteSlot) : SpriteSlot :=
  if q.x = 0 then { q with patLo := q.patLo <<< 1, patHi := q.patHi <<< 1 } else { q with x := q.x - 1 }

/-- `SpriteStep()` (51_ppu_rendering.md R316). -/
def spriteStep (p : Ppu) : Ppu := { p with slots := p.slots.map stepSlot }

/-! Pixel composition -/

/-- A 2-bit number from its high and low bit. -/
def twoBits (hi lo : Bool) : Nat := 2 * hi.toNat + lo.toNat

/-- A layer's pixel: palette number and pixel value, value 0 being transparent (51_ppu_rendering.md R318, R319). -/
structure Pixel where
  pal : Nat
  px : Nat
  deriving DecidableEq, Repr

/-- The background pixel (51_ppu_rendering.md R318). -/
def backgroundPixel (p : Ppu) : Pixel :=
  if p.mask.getLsbD 3 then
    let k := 15 - p.x.toNat
    { pal := twoBits (p.bgAttrHi.getLsbD k) (p.bgAttrLo.getLsbD k),
      px := twoBits (p.bgPatHi.getLsbD k) (p.bgPatLo.getLsbD k) }
  else { pal := 0, px := 0 }

/-- The foreground pixel with the slot it comes from and whether it is in front of the background
(51_ppu_rendering.md R319). -/
structure Foreground where
  pixel : Pixel
  front : Bool
  slot : Nat
  deriving DecidableEq, Repr

/-- The pattern bits a slot shows now (51_ppu_rendering.md R319). -/
def SpriteSlot.pixel (q : SpriteSlot) : Nat := twoBits (q.patHi.getLsbD 7) (q.patLo.getLsbD 7)

/-- The first slot, from slot number `i` on, whose countdown is zero and whose pixel is opaque
(51_ppu_rendering.md R319). -/
def firstOpaque (i : Nat) : List SpriteSlot → Option Foreground
  | [] => none
  | q :: rest =>
    if q.x = 0 ∧ q.pixel ≠ 0 then
      some { pixel := { pal := (q.attr &&& 3).toNat + 4, px := q.pixel }, front := !q.attr.getLsbD 5, slot := i }
    else firstOpaque (i + 1) rest

/-- The foreground pixel, none where it is transparent (51_ppu_rendering.md R319). -/
def foregroundPixel (p : Ppu) : Option Foreground :=
  if p.mask.getLsbD 4 then firstOpaque 0 p.slots else none

/-- The multiplexer (51_ppu_rendering.md R321). -/
def muxPixel (bg : Pixel) (fg : Option Foreground) : Pixel :=
  match fg with
  | none => if bg.px = 0 then { pal := 0, px := 0 } else bg
  | some f => if bg.px = 0 ∨ f.front then f.pixel else bg

/-- The palette address of a pixel (51_ppu_rendering.md R322). -/
def paletteAddr (q : Pixel) : Addr := 0x3F00 + BitVec.ofNat 16 (4 * q.pal + q.px)

/-- The colour at the current position (51_ppu_rendering.md R317 to R322). -/
def pixelColor (fixed : Fixed) (p : Ppu) : Byte :=
  ppuRead fixed p (paletteAddr (muxPixel (backgroundPixel p) (foregroundPixel p)))

/-- Sprite 0 hits at the current position (51_ppu_rendering.md R320). -/
def spriteZeroHit (fixed : Fixed) (p : Ppu) : Bool :=
  match foregroundPixel p with
  | none => false
  | some f => decide (f.slot = 0) && p.spr0Line && decide (p.cycle ≠ fixed.params.sprite0ExcludedCycle)

/-- The PPU after a pixel was composed: the sprite-0-hit bit (51_ppu_rendering.md R320). -/
def markSpriteZeroHit (fixed : Fixed) (p : Ppu) : Ppu :=
  if spriteZeroHit fixed p then { p with status := p.status ||| 0x40 } else p

/-! One tick -/

/-- `PrerenderClear()` (51_ppu_rendering.md R323). -/
def prerenderClear (p : Ppu) : Ppu :=
  { p with status := p.status &&& 0x1F, slots := List.replicate 8 SpriteSlot.cleared, spriteCount := 0,
           spr0Line := false }

/-- `VBlankEntry()` (51_ppu_rendering.md R325, 60_exceptions.md R375, R376). -/
def vblankEntry (s : State) : State :=
  let s1 := s.setPpu { s.ppu with status := s.ppu.status ||| 0x80 }
  if s.ppu.ctrl.getLsbD 7 then enterNmi s1 else s1

/-- Lines 1 and 2 of the PPU tick: the status events (51_ppu_rendering.md R291). -/
def statusEvents (s : State) : State :=
  if s.ppu.scanline = -1 ∧ s.ppu.cycle = 0 then s.setPpu (prerenderClear s.ppu)
  else if s.ppu.scanline = 241 ∧ s.ppu.cycle = 0 then vblankEntry s
  else s

/-- Lines 3 to 14 of the PPU tick (51_ppu_rendering.md R291, R292, R293). -/
def renderStage (s : State) : State :=
  if s.ppu.renderingEnabled ∧ -1 ≤ s.ppu.scanline ∧ s.ppu.scanline ≤ 239 then s.setPpu (renderCycle s.fixed s.ppu)
  else s

/-- Lines 17 and 18 of the PPU tick (51_ppu_rendering.md R291, R309, R316). -/
def spriteCycle (fixed : Fixed) (p : Ppu) : Ppu :=
  if p.renderingEnabled then
    let p := spriteStep p
    if p.cycle = 255 then spriteFetch fixed (spriteEvaluate p) else p
  else p

/-- Lines 15 to 18 of the PPU tick (51_ppu_rendering.md R291, R317). -/
def pixelStage (s : State) : State :=
  if 0 ≤ s.ppu.scanline ∧ s.ppu.scanline ≤ 239 ∧ s.ppu.cycle ≤ 255 then
    let color := pixelColor s.fixed s.ppu
    (s.setPpu (spriteCycle s.fixed (markSpriteZeroHit s.fixed s.ppu))).emit
      (.drawPixel s.ppu.cycle s.ppu.scanline.toNat color)
  else s

/-- `AdvancePosition()` (51_ppu_rendering.md R326). -/
def advancePosition (s : State) : State :=
  if s.ppu.cycle < 340 then s.setPpu { s.ppu with cycle := s.ppu.cycle + 1 }
  else if s.ppu.scanline < 260 then s.setPpu { s.ppu with cycle := 0, scanline := s.ppu.scanline + 1 }
  else (s.setPpu { s.ppu with cycle := 0, scanline := -1 }).emit .presentFrame

/-- `PpuTick()` (51_ppu_rendering.md R291). -/
def ppuTick (s : State) : State := advancePosition (pixelStage (renderStage (statusEvents s)))

end Sys2Proof.Machine
end

