-- ==== Sys2Proof/Machine/Clock.lean ====
section
/-! DEFINITION. The clock orchestrator, the CPU tick and OAM DMA (52_clock_dma.md R340 to R350). -/

namespace Sys2Proof.Machine

/-- The parity of the CPU tick number `k = g div 3` (52_clock_dma.md R348). -/
def oddCpuTick (s : State) : Bool := decide (s.g / 3 % 2 = 1)

/-- The address a DMA read takes its byte from (52_clock_dma.md R348). -/
def dmaAddr (d : Dma) : Addr := mkAddr d.page d.index

/-- The write half of a DMA transfer: into OAM at the index, which ends the transfer when it wraps
(52_clock_dma.md R348). -/
def dmaWrite (s : State) : State :=
  let index := s.dma.index + 1
  let done := decide (index = 0)
  (s.setPpu { s.ppu with oam := Memory.write s.ppu.oam s.dma.index.toNat s.dma.data }).setDma
    { s.dma with index := index, active := !done, dummy := done }

/-- The read half of a DMA transfer, through the whole CPU bus decode (52_clock_dma.md R348). -/
def dmaRead (s : State) : State :=
  let r := memRead (dmaAddr s.dma) s
  r.2.setDma { r.2.dma with data := r.1 }

/-- `DmaStep()` (52_clock_dma.md R348). -/
def dmaStep (s : State) : State :=
  if s.dma.dummy then (if oddCpuTick s then s.setDma { s.dma with dummy := false } else s)
  else if oddCpuTick s then dmaWrite s
  else dmaRead s

/-- `ExecuteInstruction()` (40_addressing.md R139): fetch, then the meaning of the table entry, which loads `cyc`. -/
def executeInstruction (s : State) : Result :=
  let f := fetchInstr s
  exec f.1 f.2

/-- `CpuTick()` (52_clock_dma.md R345). -/
def cpuTick (s : State) : Result :=
  if s.dma.active then .next (dmaStep s)
  else
    let s1 := s.charge (s.cpu.cyc - 1)
    if s1.cpu.cyc = 0 then executeInstruction s1 else .next s1

/-- The audio unit's share of a global tick (52_clock_dma.md R340, R352): none when the CPU tick of the same global
tick raised the fatal condition (60_exceptions.md R383). -/
def audioStage (s : State) : State :=
  if s.g % 6 = 0 ∧ s.fatal = none then s.emit .audioTick else s

/-- The PPU's share of a global tick and the count of the tick (52_clock_dma.md R340). -/
def ppuStage (s : State) : State :=
  let s1 := ppuTick s
  s1.setG (s1.g + 1)

/-- The CPU's share of a global tick: every third (52_clock_dma.md R340). -/
def cpuStage (s : State) : Result := if s.g % 3 = 0 then cpuTick s else .next s

/-- `GlobalTick()` of a machine that has not stopped (52_clock_dma.md R340). -/
def globalTick (s : State) : Result :=
  match cpuStage (ppuStage s) with
  | .next t => .next (audioStage t)
  | .fault r => .fault r
  | .refused r => .refused r

end Sys2Proof.Machine
end

