-- ==== Sys2Proof/Machine/Step.lean ====
section
/-! DEFINITION. One step of the machine is one global tick (00_scope.md R15, 52_clock_dma.md R340). -/

namespace Sys2Proof.Machine

/-- One global tick (52_clock_dma.md R340). A machine whose fault bit is set takes no further step
(60_exceptions.md R385, log entry 5). -/
def step (s : State) : Host.Outcome State Fault Refusal :=
  match s.fatal with
  | some f => .fault (.cartridgeWrite f.addr f.value)
  | none => globalTick s

/-- The state with an instruction word placed where the next step fetches, and everything set that this takes: the
fault bit clear, no DMA, the next global tick a CPU tick whose countdown ends, and no NMI entry in that tick.
Log entry 9. -/
def State.withFetchWord (s : State) (nbits w : Nat) : State :=
  let bits := w % 2 ^ nbits
  let pc := s.cpu.pc
  let pc := if placeable pc && placeable (pc + 1) && placeable (pc + 2) then pc else 0
  let s1 := placeByte (pc + 2) (BitVec.ofNat 8 (bits / 2 ^ 16))
    (placeByte (pc + 1) (BitVec.ofNat 8 (bits / 2 ^ 8)) (placeByte pc (BitVec.ofNat 8 bits) s))
  let nmiNext := decide (s.ppu.scanline = 241) && decide (s.ppu.cycle = 0) && s.ppu.ctrl.getLsbD 7
  { s1 with
    cpu := { s.cpu with pc := pc, cyc := min s.cpu.cyc 1 }
    fatal := none
    dma := { s.dma with active := false }
    ppu := { s.ppu with cycle := if nmiNext then 1 else s.ppu.cycle }
    g := s.g + (2 - s.g % 3) }

end Sys2Proof.Machine
end

