-- ==== Sys2Proof/Safety.lean ====
section
/-! DEFINITION. The terms claims are stated in: a machine that runs, the invariant of its state, what an instruction
leaves alone, and the cost of an instruction. Nothing here is used by the machine. -/

namespace Sys2Proof.Machine

/-- The machine has not stopped on the fatal condition: a safe run is one all of whose states are running
(60_exceptions.md R385). -/
abbrev State.Running (s : State) : Prop := s.fatal = none

/-- The invariant of the machine's state. -/
structure Inv (s : State) : Prop where
  /-- "status bit 5 is always 1" (10_state.md R26). -/
  statusBit5 : s.cpu.flag .u = true
  /-- The live break flag is never 1 (10_state.md R27). -/
  statusBit4 : s.cpu.flag .b = false
  /-- Every memory keeps its canonical form inside its address range (10_state.md R35, R36, R41 to R43,
  20_memory.md R66, R75). -/
  ram : Memory.wf 0 2048 s.ram
  oam : Memory.wf 0 256 s.ppu.oam
  secOam : Memory.wf 0 32 s.ppu.secOam
  nt : Memory.wf 0 2048 s.ppu.nt
  pal : Memory.wf 0 32 s.ppu.pal
  program : Memory.wf 0x4020 0x10000 s.fixed.program
  tiles : Memory.wf 0 0x2000 s.fixed.tiles
  /-- Eight shadow slots (10_state.md R39). -/
  slots : s.ppu.slots.length = 8
  /-- `sprite_count` in 0 to 8 (10_state.md R36). -/
  spriteCount : s.ppu.spriteCount ≤ 8
  /-- The position (10_state.md R40). -/
  scanline : -1 ≤ s.ppu.scanline ∧ s.ppu.scanline ≤ 260
  cycle : s.ppu.cycle ≤ 340
  /-- "Bits 4 to 0 are always 0" (50_ppu_registers.md R256). -/
  ppuStatus : s.ppu.status &&& 0x1F = 0
  /-- "`oam_addr` stays 0 for the whole transfer" (52_clock_dma.md R348). -/
  dmaOamAddr : s.dma.active = true → s.ppu.oamAddr = 0
  /-- An idle DMA unit waits for an aligned start at the first byte (52_clock_dma.md R348, 10_state.md R50). -/
  dmaIdle : s.dma.active = false → s.dma.dummy = true ∧ s.dma.index = 0
  /-- No instruction costs 0 cycles: the parameter `UNDEF_OP` neither. -/
  undefCycles : 1 ≤ s.fixed.params.undefOp.cycles
  /-- "`CpuTick` never leaves `cyc` at 0" (70_reset_and_hazards.md R424). -/
  cyc : s.fatal = none → 1 ≤ s.cpu.cyc

/-- The launch parameters hold canonical memories inside their address ranges, and costs of at least one cycle
(00_scope.md R8). -/
structure Launch.WellFormed (l : Launch) : Prop where
  program : Memory.wf 0x4020 0x10000 l.program
  tiles : Memory.wf 0 0x2000 l.tiles
  ram : Memory.wf 0 2048 l.ram
  oam : Memory.wf 0 256 l.oam
  nt : Memory.wf 0 2048 l.nt
  pal : Memory.wf 0 32 l.pal
  resetCycles : 1 ≤ l.params.resetCycles
  undefCycles : 1 ≤ l.params.undefOp.cycles

/-- Everything outside the CPU register file and the fault bit is the same. -/
structure SameDevices (s t : State) : Prop where
  ram : t.ram = s.ram
  ppu : t.ppu = s.ppu
  dma : t.dma = s.dma
  g : t.g = s.g
  fixed : t.fixed = s.fixed
  trace : t.trace = s.trace
  joypadReads : t.joypadReads = s.joypadReads

/-- Everything outside the CPU register file is the same. -/
structure SameOutsideCpu (s t : State) : Prop extends SameDevices s t where
  fatal : t.fatal = s.fatal

/-- Everything outside the CPU register file and RAM is the same. -/
structure SameOutsideCpuAndRam (s t : State) : Prop where
  fatal : t.fatal = s.fatal
  ppu : t.ppu = s.ppu
  dma : t.dma = s.dma
  g : t.g = s.g
  fixed : t.fixed = s.fixed
  trace : t.trace = s.trace
  joypadReads : t.joypadReads = s.joypadReads

/-- `A`, `X`, `Y`, `SP`, `pc` are the same. -/
structure SameRegisters (c d : Cpu) : Prop where
  a : d.a = c.a
  x : d.x = c.x
  y : d.y = c.y
  sp : d.sp = c.sp
  pc : d.pc = c.pc

/-- Every flag but those listed is the same. -/
abbrev SameFlagsBut (fs : List Flag) (c d : Cpu) : Prop := ∀ f, f ∉ fs → d.flag f = c.flag f

/-- Z and N are those of the byte `v` (40_addressing.md R138). -/
abbrev ZNOf (v : Byte) (d : Cpu) : Prop := d.flag .z = decide (v = 0) ∧ d.flag .n = decide (128 ≤ v.toNat)

/-- The byte an address reads as. -/
abbrev byteAt (s : State) (a : Addr) : Byte := (memRead a s).1

/-- RAM after the byte `v` was written at the RAM address `ea`, through the byte every RAM address reads as
(20_memory.md R63): the cell's mirrors read `v`, every other address reads as before. -/
abbrev RamAfterWrite (ea : Addr) (v : Byte) (s t : State) : Prop :=
  ∀ b : Addr, b ≤ 0x1FFF → byteAt t b = if b &&& 0x07FF = ea &&& 0x07FF then v else byteAt s b

/-- Every byte of RAM and of the cartridge reads as before. -/
abbrev MemoryKept (s t : State) : Prop := ∀ b : Addr, b ≤ 0x1FFF ∨ 0x4020 ≤ b → byteAt t b = byteAt s b

/-- An instruction that leaves the state `t`, whose registers are those given, whose cost is `cost`, and which touches
nothing outside the CPU. -/
structure RegistersAre (s t : State) (a x y sp : Byte) (pc : Addr) (cost : Nat) : Prop extends SameOutsideCpu s t where
  a : t.cpu.a = a
  x : t.cpu.x = x
  y : t.cpu.y = y
  sp : t.cpu.sp = sp
  pc : t.cpu.pc = pc
  cyc : t.cpu.cyc = cost

/-- The register a store writes (41_load_store.md R144 to R146). -/
def storeValue (op : Operation) (c : Cpu) : Option Byte :=
  match op with
  | .sta => some c.a
  | .stx => some c.x
  | .sty => some c.y
  | _ => none

/-- The result of a read-modify-write operation on the byte `m` with the old carry, as a number
(45_incdec.md R186, R187, 46_shift_rotate.md R196 to R199). -/
def modifyResult (op : Operation) (carry : Bool) (m : Nat) : Option Nat :=
  match op with
  | .inc => some ((m + 1) % 256)
  | .dec => some ((m + 255) % 256)
  | .asl => some ((2 * m) % 256)
  | .lsr => some (m / 2)
  | .rol => some ((2 * m + carry.toNat) % 256)
  | .ror => some (m / 2 + 128 * carry.toNat)
  | _ => none

/-- The carry a read-modify-write operation leaves: the bit shifted out, or the old carry
(45_incdec.md R185, 46_shift_rotate.md R195). -/
def modifyCarry (op : Operation) (carry : Bool) (m : Nat) : Bool :=
  match op with
  | .asl | .rol => decide (128 ≤ m)
  | .lsr | .ror => decide (m % 2 = 1)
  | _ => carry

/-- The page-cross cycle of an instruction in a state (40_addressing.md R139, 70_reset_and_hazards.md R421). -/
def crossCost (i : Instr) (s : State) : Nat :=
  match i.operand with
  | .src (.mem m) => if (resolve m s).crossed && pageCrossCosts i.operation then 1 else 0
  | _ => 0

/-- The flag and the value a branch tests (47_jump_branch.md R210 to R217). -/
def branchTest : Operation → Option (Flag × Bool)
  | .bcc => some (.c, false)
  | .bcs => some (.c, true)
  | .beq => some (.z, true)
  | .bne => some (.z, false)
  | .bmi => some (.n, true)
  | .bpl => some (.n, false)
  | .bvc => some (.v, false)
  | .bvs => some (.v, true)
  | _ => none

/-- The address as an integer offset of a branch (00_scope.md R9 `sext_16`). -/
def branchDestination (next : Addr) (rel : Byte) : Addr :=
  if rel.toNat < 128 then BitVec.ofNat 16 (next.toNat + rel.toNat)
  else BitVec.ofNat 16 (next.toNat + rel.toNat + 0xFF00)

/-- The extra cycles of a branch (47_jump_branch.md R209). -/
def branchCost (i : Instr) (s : State) : Nat :=
  match branchTest i.operation, i.operand with
  | some (f, value), .rel b1 =>
    if s.cpu.flag f = value then
      if hiByte (branchDestination s.cpu.pc b1) = hiByte s.cpu.pc then 1 else 2
    else 0
  | _, _ => 0

/-- The extra cycles of the table entry `UNDEF_OP`: the page-cross cycle of its operation and mode, and those of a taken
branch to the effective address (40_addressing.md R139, 70_reset_and_hazards.md R421, 47_jump_branch.md R209). -/
def entryExtra (u : UndefOp) (s : State) : Nat :=
  let r := resolveMode u.mode s
  (if r.1.crossed = true ∧ pageCrossCosts u.operation = true then 1 else 0) +
    match branchTest u.operation with
    | some (f, value) =>
      if r.2.cpu.flag f = value then (if hiByte r.1.ea = hiByte r.2.cpu.pc then 1 else 2) else 0
    | none => 0

/-- The state with `cyc` loaded, unless the instruction raised the fatal condition, which leaves `cyc` as it is
(40_addressing.md R139). -/
def State.costing (n : Nat) (s : State) : State := if s.fatal = none then s.charge n else s

/-- The instruction bytes at `pc`, read one after another with their side effects, and the state after them
(30_encoding.md R105). -/
def fetchBytes : Nat → State → List Byte × State
  | 0, s => ([], s)
  | n + 1, s =>
    let b := fetchByte s
    let rest := fetchBytes n b.2
    (b.1 :: rest.1, rest.2)

/-- The nametable-select field of `v` or `t`: bit 0 horizontal, bit 1 vertical (10_state.md R32). -/
def nametableSelect (v : BitVec 15) : BitVec 2 := v.extractLsb' 10 2

/-- The position as one number, counted from (-1, 0) (51_ppu_rendering.md R326). -/
def Ppu.position (p : Ppu) : Nat := (p.scanline + 1).toNat * 341 + p.cycle

/-- `n` PPU ticks with nothing between them (51_ppu_rendering.md R290). -/
def ppuTicks : Nat → State → State
  | 0, s => s
  | n + 1, s => ppuTicks n (ppuTick s)

/-- The first `n` bytes of a page read through the CPU bus one after another, each stored in OAM before the next is read
(52_clock_dma.md R348). -/
def dmaCopied (page : Byte) : Nat → State → State
  | 0, s => s
  | n + 1, s =>
    let u := dmaCopied page n s
    let r := memRead (mkAddr page (BitVec.ofNat 8 n)) u
    r.2.setPpu { r.2.ppu with oam := Memory.write r.2.ppu.oam n r.1 }

/-- `n` CPU ticks of an active DMA unit: between two of them the tick counter grows by 3 and no PPU tick runs
(52_clock_dma.md R340). -/
def dmaTicks : Nat → State → State
  | 0, s => s
  | n + 1, s => dmaTicks n (dmaStep (s.setG (s.g + 3)))

end Sys2Proof.Machine
end

