-- ==== Sys2Proof/Certificates/Slice0/Obligations.lean ====
section
/-! DEFINITION. The statements for the provers.
Each docstring names the rules it formalises; where a clause is a decision of spec/92_eei_decisions.md or a choice of
the model, the docstring says so. -/

open Sys2Proof Sys2Proof.Machine

/-! Encoding -/

/-- Decoding an encoded instruction gives it back, with every operand at every value (30_encoding.md R101, R103, R109,
R110). -/
def Obligations.DecodeOfEncodeIsTheInstruction : Prop :=
  ∀ (i : Instr) (rest : List Byte), i.WellFormed → decode (encode i ++ rest) = .ok (i, rest)

/-- Whatever is decoded is a well-formed instruction whose bytes are those decoded, and no opcode byte is rejected: three
bytes always hold an instruction (30_encoding.md R100, R104, R105, R110, R111). -/
def Obligations.DecodedBytesAreTheEncoding : Prop :=
  (∀ (bytes rest : List Byte) (i : Instr), decode bytes = .ok (i, rest) → i.WellFormed ∧ encode i ++ rest = bytes) ∧
  (∀ op b1 b2 : Byte, ∃ i rest, decode [op, b1, b2] = .ok (i, rest) ∧ i.length + rest.length = 3 ∧
    (i = .und op ↔ op ∈ undefinedOpcodes))

/-- Words written out from the opcode table, one of every family (30_encoding.md R109, R110, R114). -/
def Obligations.SampleWordsDecode : Prop :=
  decode [0xA9, 0x0A] = .ok (.ldaImm 0x0A, []) ∧
  decode [0x91, 0x20] = .ok (.staIzy 0x20, []) ∧
  decode [0xBA] = .ok (.tsx, []) ∧
  decode [0x28] = .ok (.plp, []) ∧
  decode [0x2C, 0x02, 0x20] = .ok (.bitAbs 0x2002, []) ∧
  decode [0x7D, 0xF0, 0x02] = .ok (.adcAbx 0x02F0, []) ∧
  decode [0xD6, 0x10] = .ok (.decZpx 0x10, []) ∧
  decode [0x6A] = .ok (.rorAcc, []) ∧
  decode [0x6C, 0xFF, 0x13] = .ok (.jmpInd 0x13FF, []) ∧
  decode [0xD0, 0xFB] = .ok (.bne 0xFB, []) ∧
  decode [0xB8] = .ok (.clv, []) ∧
  decode [0x40] = .ok (.rti, []) ∧
  decode [0xA7, 0x10] = .ok (.und 0xA7, [0x10])

/-! The step -/

/-- In a CPU tick whose countdown ends, with no DMA active, the bytes at `pc` are read one after another
(FetchAdvancesPcByTheLength says which they are) and the step is the meaning of the instruction they decode to, after
that tick's PPU cycle and before its audio tick (52_clock_dma.md R340, R345, 40_addressing.md R139; which tick is a CPU
tick is the spec's decision D40, the order of countdown and execution D8; that fetching stands in the step and not in the
meaning is log entry 1). What the meaning of an undefined opcode is,
UndefinedOpcodesRunTheirTableEntry says; what `ppuStage` and `audioStage` are, StepBetweenInstructions. -/
def Obligations.StepRunsTheDecodedInstruction : Prop :=
  ∀ (s : State) (i : Instr), s.Running →
    let u := ppuStage s
    u.g % 3 = 0 → u.dma.active = false → u.cpu.cyc ≤ 1 →
    let f := fetchBytes i.length (u.charge 0)
    decode f.1 = .ok (i, []) →
    step s = match exec i f.2 with
      | .next t => .next (audioStage t)
      | .fault r => .fault r
      | .refused r => .refused r

/-- An undefined opcode runs the table entry `UNDEF_OP`, whatever operation, mode and cost it has (00_scope.md R8,
30_encoding.md R110, 40_addressing.md R134, R139, 70_reset_and_hazards.md R421). `r` and `u` are what resolving the entry's
mode answers (EffectiveAddresses says what that is) and the state after it.
Where the entry's operation and mode are those of an instruction, it is that instruction with the entry's cost in place of
its base cost. In any mode an operation without operand is its implied form; a load, a logical, arithmetic, compare, store,
read-modify-write, jump or call on an operand in memory is its absolute form at the effective address; a branch goes to
the effective address. On the accumulator a read takes `A` and a store or read-modify-write leaves its byte in `A`
instead of memory (R122). In implied mode a store or a read-modify-write writes $0000, a jump or a call goes there, and
the byte an operation reads is a free value. The entry is a parameter (decision D2); the readings of R122, R127 and R134
for entries outside the table, and the free value, are log entry 7. -/
def Obligations.UndefinedOpcodesRunTheirTableEntry : Prop :=
  ∀ (s : State) (op : Byte), s.Running →
    let e := s.fixed.params.undefOp
    let r := (resolveMode e.mode s).1
    let u := (resolveMode e.mode s).2
    let cost := e.cycles + (if r.crossed = true ∧ pageCrossCosts e.operation = true then 1 else 0)
    -- a row of the table
    (∀ j : Instr, j.operation = e.operation → j.mode = e.mode → e.operation ≠ .und →
      let b := fetchBytes (j.length - 1) s
      (encode j).tail = b.1 →
      ∃ t, exec j b.2 = .next t ∧
        exec (.und op) s = .next (t.costing (t.cpu.cyc - patternCost j.operation j.mode + e.cycles))) ∧
    -- an operation without operand, in any mode
    (e.operation = .und → exec (.und op) s = .next (u.charge e.cycles)) ∧
    (∀ j : Instr, j.operation = e.operation → j.mode = .imp → e.operation ≠ .und →
      ∃ t, exec j u = .next t ∧ exec (.und op) s = .next (t.charge e.cycles)) ∧
    -- a branch, in any mode
    (∀ f value, branchTest e.operation = some (f, value) →
      exec (.und op) s = .next
        (if u.cpu.flag f = value then
          (u.setCpu (u.cpu.setPc r.ea)).charge (e.cycles + if hiByte r.ea = hiByte u.cpu.pc then 1 else 2)
        else u.charge e.cycles)) ∧
    -- an operand in memory, and in any mode an operation that uses its address alone
    (∀ j : Instr, j.operation = e.operation → j.operand = .src (.mem (.abs r.ea)) →
      r.tag = .mem ∨ (r.tag = .none ∧ (storeValue e.operation u.cpu).isSome) ∨ e.operation = .jmp ∨ e.operation = .jsr →
      ∃ t, exec j u = .next t ∧ exec (.und op) s = .next (t.costing cost)) ∧
    -- a store and a read-modify-write on the accumulator
    (∀ v, storeValue e.operation u.cpu = some v → r.tag = .acc →
      exec (.und op) s = .next ((u.setCpu (u.cpu.setA v)).charge e.cycles)) ∧
    (∀ n, modifyResult e.operation (u.cpu.flag .c) u.cpu.a.toNat = some n → r.tag = .acc →
      ∃ t, exec (.und op) s = .next t ∧
        RegistersAre u t (BitVec.ofNat 8 n) u.cpu.x u.cpu.y u.cpu.sp u.cpu.pc e.cycles ∧
        t.cpu.flag .c = modifyCarry e.operation (u.cpu.flag .c) u.cpu.a.toNat ∧
        ZNOf (BitVec.ofNat 8 n) t.cpu ∧ SameFlagsBut [.c, .z, .n] u.cpu t.cpu) ∧
    -- a read on the accumulator, and one with no operand at all
    (r.tag ≠ .mem → ∃ m : Byte, (r.tag = .acc → m = u.cpu.a) ∧
      (∀ j : Instr, j.operation = e.operation → j.operand = .src (.imm m) →
        ∃ t, exec j u = .next t ∧ exec (.und op) s = .next (t.charge e.cycles)) ∧
      (e.operation = .bit → ∃ t, exec (.und op) s = .next t ∧
        RegistersAre u t u.cpu.a u.cpu.x u.cpu.y u.cpu.sp u.cpu.pc e.cycles ∧
        t.cpu.flag .z = decide (u.cpu.a &&& m = 0) ∧ t.cpu.flag .v = decide (64 ≤ m.toNat % 128) ∧
        t.cpu.flag .n = decide (128 ≤ m.toNat) ∧ SameFlagsBut [.z, .v, .n] u.cpu t.cpu) ∧
      (∀ n, modifyResult e.operation (u.cpu.flag .c) m.toNat = some n → r.tag = .none →
        Memory.wf 0 2048 s.ram →
        ∃ t, exec (.und op) s = .next t ∧ SameOutsideCpuAndRam u t ∧ SameRegisters u.cpu t.cpu ∧
          t.cpu.cyc = e.cycles ∧ RamAfterWrite 0 (BitVec.ofNat 8 n) u t ∧
          t.cpu.flag .c = modifyCarry e.operation (u.cpu.flag .c) m.toNat ∧
          ZNOf (BitVec.ofNat 8 n) t.cpu ∧ SameFlagsBut [.c, .z, .n] u.cpu t.cpu))

/-- What a step consists of, and what it does when it executes no instruction. The PPU's share is the PPU tick and then the
count of the tick; the audio share puts `AudioTick` at the head of the trace (its newest end) in every sixth tick, of a
machine that has not stopped, and does nothing else. A step is the PPU's share alone between CPU ticks, one count of `cyc`
in a CPU tick whose countdown goes on, one DMA step in a CPU tick while DMA is active (52_clock_dma.md R340, R345, R352,
60_exceptions.md R383; decisions D8, D40). -/
def Obligations.StepBetweenInstructions : Prop :=
  ∀ s : State, s.Running →
    let u := ppuStage s
    u = (ppuTick s).setG (s.g + 1) ∧
    (∀ w : State, audioStage w =
      if w.g % 6 = 0 ∧ w.fatal = none then { w with trace := .audioTick :: w.trace } else w) ∧
    (u.g % 3 ≠ 0 → step s = .next u) ∧
    (u.g % 3 = 0 → u.dma.active = false → 1 < u.cpu.cyc →
      step s = .next (audioStage (u.charge (u.cpu.cyc - 1)))) ∧
    (u.g % 3 = 0 → u.dma.active = true → step s = .next (audioStage (dmaStep u)))

/-- A fetch reads the bytes at `pc` in order, each once, leaves `pc` at the byte after the instruction, and changes nothing
else of the CPU, RAM, the cartridge, the DMA unit and the clock. The first byte is the byte `pc` names; where bytes lie in
RAM or the cartridge the k-th is the byte `pc + k` names, and reading them changes nothing else at all
(10_state.md R23, 30_encoding.md R105, 20_memory.md R91; the wrap of `pc` is decision D14). -/
def Obligations.FetchAdvancesPcByTheLength : Prop :=
  ∀ s : State,
    let f := fetchInstr s
    f.1.WellFormed ∧
    decode (fetchBytes f.1.length s).1 = .ok (f.1, []) ∧
    f.2 = (fetchBytes f.1.length s).2 ∧
    (fetchBytes f.1.length s).1.head? = some (byteAt s s.cpu.pc) ∧
    f.2.cpu = s.cpu.setPc (s.cpu.pc + BitVec.ofNat 16 f.1.length) ∧
    f.2.fatal = s.fatal ∧ f.2.ram = s.ram ∧ f.2.dma = s.dma ∧ f.2.g = s.g ∧ f.2.fixed = s.fixed ∧
    f.2.trace = s.trace ∧
    (∀ n, (∀ k < n, s.cpu.pc + BitVec.ofNat 16 k ≤ 0x1FFF ∨ 0x4020 ≤ s.cpu.pc + BitVec.ofNat 16 k) →
      (fetchBytes n s).1.length = n ∧
      (∀ k < n, (fetchBytes n s).1[k]? = some (byteAt s (s.cpu.pc + BitVec.ofNat 16 k))) ∧
      SameOutsideCpu s (fetchBytes n s).2)

/-- A machine that runs always has a next state: no instruction, no read and no interrupt stops it. One whose fault bit
is set takes no further step (60_exceptions.md R384, R385, 52_clock_dma.md R340; that a stopped machine answers a fault
is the model's choice, log entry 5). -/
def Obligations.OnlyTheFatalConditionStops : Prop :=
  (∀ s : State, s.Running → ∃ t, step s = .next t) ∧
  (∀ (s : State) (f : FatalWrite), s.fatal = some f → step s = .fault (.cartridgeWrite f.addr f.value))

/-! Boot -/

/-- Boot leaves every state element at the value of 70_reset_and_hazards.md R402, whatever the launch parameters, and
refuses MIRRORING = Other (R400, R401, 10_state.md R47 to R50). The register values are decisions D5 to D7, the PPU's and
the DMA unit's D32 and D39, the clock's D40, the refusal D20, the defaults of the parameters D2, D7, D9, D34. The model's
own: secondary OAM is $00 (log entry 3), no event has been emitted (log entry 6), no joypad bit consumed (log entry 4). -/
def Obligations.BootLeavesTheSpecifiedState : Prop :=
  (Params.default.resetCycles = 7 ∧ Params.default.nmiCycles = 7 ∧
    Params.default.undefOp = { operation := .nop, mode := .imp, cycles := 2 } ∧
    Params.default.sprite0ExcludedCycle = 254) ∧
  ∀ l : Launch,
    (l.mirroring = .other → boot l = .refused .mirroringOther) ∧
    (l.mirroring ≠ .other → ∃ s, boot l = .next s ∧
      s.cpu.a = 0 ∧ s.cpu.x = 0 ∧ s.cpu.y = 0 ∧ s.cpu.sp = 0xFD ∧ s.cpu.p = 0x24 ∧
      s.cpu.cyc = l.params.resetCycles ∧ s.fatal = none ∧
      s.cpu.pc.toNat = (Memory.read l.program 0xFFFC).toNat + 256 * (Memory.read l.program 0xFFFD).toNat ∧
      s.ram = l.ram ∧ s.fixed.program = l.program ∧ s.fixed.tiles = l.tiles ∧ s.fixed.params = l.params ∧
      (l.mirroring = .horizontal ↔ s.fixed.mirroring = .horizontal) ∧
      s.ppu.v = 0 ∧ s.ppu.t = 0 ∧ s.ppu.x = 0 ∧ s.ppu.w = false ∧ s.ppu.ctrl = 0 ∧ s.ppu.mask = 0 ∧
      s.ppu.status = 0 ∧ s.ppu.oamAddr = 0 ∧ s.ppu.dataBuffer = 0 ∧
      s.ppu.bgPatLo = 0 ∧ s.ppu.bgPatHi = 0 ∧ s.ppu.bgAttrLo = 0 ∧ s.ppu.bgAttrHi = 0 ∧
      s.ppu.nextTileId = 0 ∧ s.ppu.nextAttr = 0 ∧ s.ppu.nextPatLo = 0 ∧ s.ppu.nextPatHi = 0 ∧
      s.ppu.slots = List.replicate 8 { patLo := 0, patHi := 0, attr := 0, x := 0 } ∧
      s.ppu.spriteCount = 0 ∧ s.ppu.spr0Next = false ∧ s.ppu.spr0Line = false ∧
      s.ppu.scanline = 0 ∧ s.ppu.cycle = 0 ∧
      s.ppu.oam = l.oam ∧ s.ppu.nt = l.nt ∧ s.ppu.pal = l.pal ∧ (∀ k, Memory.read s.ppu.secOam k = 0) ∧
      s.dma = { active := false, dummy := true, page := 0, index := 0, data := 0 } ∧
      s.g = 0 ∧ s.trace = [] ∧ s.joypadReads = 0)

/-- The state after reset and every state booted with canonical memories and costs of at least one cycle meet the
invariant (70_reset_and_hazards.md R402, R424). Its clauses rest on decisions D4 (live status bit 4, log entry 8), D32
(the position, log entry 10) and D39 (the DMA unit's idle form, log entry 11). -/
def Obligations.BootMeetsTheInvariant : Prop :=
  Inv State.reset ∧ (∀ (l : Launch) (s : State), l.WellFormed → boot l = .next s → Inv s)

/-! Invariants and whole-machine rules -/

/-- Every step keeps the invariant: canonical memories, status bits 5 and 4, the PPU's position, status and sprite
counts, the DMA unit's idle form, the OAM address during a transfer, and a cycle counter of at least 1. The clause about
status bit 4 (10_state.md R27) rests on decision D4 (log entry 8), the position on D32 (log entry 10), the two DMA clauses
(52_clock_dma.md R348) on D39 (log entry 11). -/
def Obligations.StepKeepsTheInvariant : Prop :=
  ∀ s t : State, Inv s → step s = .next t → Inv t

/-- "status bit 5 is always 1": no step clears it (10_state.md R26). -/
def Obligations.NoStepClearsStatusBitFive : Prop :=
  ∀ s t : State, s.cpu.flag .u = true → step s = .next t → t.cpu.flag .u = true

/-- A step never changes the cartridge, counts one global tick, and moves the PPU to the next of the 262 times 341
positions (52_clock_dma.md R340, R355, 51_ppu_rendering.md R326; the position's start and wrap are decision D32). -/
def Obligations.StepAdvancesClockAndPosition : Prop :=
  ∀ s t : State, -1 ≤ s.ppu.scanline → s.ppu.scanline ≤ 260 → s.ppu.cycle ≤ 340 → step s = .next t →
    t.fixed = s.fixed ∧ t.g = s.g + 1 ∧
    t.ppu.position = (s.ppu.position + 1) % 89342 ∧
    -1 ≤ t.ppu.scanline ∧ t.ppu.scanline ≤ 260 ∧ t.ppu.cycle ≤ 340

/-- The frame (51_ppu_rendering.md R327): from any position 89,342 PPU ticks return to it, exactly one of them works at
(241, 0), and `presentFrame` is called exactly once; from (0, 0) the first VBlank is set by tick 82,182 and the first
`presentFrame` called by tick 89,001. -/
def Obligations.FrameIs89342Ticks : Prop :=
  (∀ s : State, -1 ≤ s.ppu.scanline → s.ppu.scanline ≤ 260 → s.ppu.cycle ≤ 340 →
    (ppuTicks 89342 s).ppu.scanline = s.ppu.scanline ∧ (ppuTicks 89342 s).ppu.cycle = s.ppu.cycle ∧
    (∃ k < 89342, ((ppuTicks k s).ppu.scanline = 241 ∧ (ppuTicks k s).ppu.cycle = 0) ∧
      ∀ j < 89342, (ppuTicks j s).ppu.scanline = 241 → (ppuTicks j s).ppu.cycle = 0 → j = k) ∧
    (ppuTicks 89342 s).trace.count .presentFrame = s.trace.count .presentFrame + 1) ∧
  (∀ s : State, s.ppu.scanline = 0 → s.ppu.cycle = 0 →
    (ppuTicks 82181 s).ppu.scanline = 241 ∧ (ppuTicks 82181 s).ppu.cycle = 0 ∧
    (∀ j < 82181, ¬((ppuTicks j s).ppu.scanline = 241 ∧ (ppuTicks j s).ppu.cycle = 0)) ∧
    (ppuTicks 89000 s).trace.count .presentFrame = s.trace.count .presentFrame ∧
    (ppuTicks 89001 s).trace.count .presentFrame = s.trace.count .presentFrame + 1)

/-! The buses -/

/-- RAM is mirrored every 2 KB: a write at any address in $0000 to $1FFF is read back at every mirror of its cell, every
other RAM address reads as before, and neither access changes anything else (20_memory.md R63). -/
def Obligations.RamIsMirrored : Prop :=
  ∀ (a : Addr) (v : Byte) (s : State), a ≤ 0x1FFF → Memory.wf 0 2048 s.ram →
    (memRead a s).2 = s ∧
    ∃ t, memWrite a v s = some t ∧ RamAfterWrite a v s t ∧ t.cpu = s.cpu ∧ SameOutsideCpuAndRam s t

/-- PPU registers are mirrored every 8 bytes across $2000 to $3FFF: an access reaches the register whose number is the
address modulo 8 (20_memory.md R64), and two addresses that agree modulo 8 reach the same one. -/
def Obligations.PpuRegistersAreMirrored : Prop :=
  ∀ (a : Addr) (s : State), 0x2000 ≤ a → a ≤ 0x3FFF →
    let n := BitVec.ofNat 3 (a.toNat % 8)
    memRead a s = ((ppuRegRead s.fixed n s.ppu).1, s.setPpu (ppuRegRead s.fixed n s.ppu).2) ∧
    (∀ v, memWrite a v s = some (s.setPpu (ppuRegWrite s.fixed n v s.ppu))) ∧
    (∀ b : Addr, 0x2000 ≤ b → b ≤ 0x3FFF → a.toNat % 8 = b.toNat % 8 →
      memRead a s = memRead b s ∧ ∀ v, memWrite a v s = memWrite b v s)

/-- Reads of $4000 to $401F: at $4016 the bit of joypad port 0 and at $4017 that of port 1, in bit 0, consuming one oracle
answer, and 0 with no effect everywhere else (20_memory.md R61, R65, 52_clock_dma.md R354; the split of the range is
decision D18). That the oracle's answer is a free constant applied to the port and to the count of answers taken, and the
count itself, are the model's (log entry 4). Writes of the cartridge's range and only those raise the fatal condition
(decision D16). -/
def Obligations.IoRangeDecodes : Prop :=
  ∀ (a : Addr) (s : State),
    (0x4000 ≤ a → a ≤ 0x401F → a ≠ 0x4016 → a ≠ 0x4017 → memRead a s = (0, s)) ∧
    (∀ port, (a = 0x4016 ∧ port = 0) ∨ (a = 0x4017 ∧ port = 1) →
      memRead a s = (if Config.joypadBit port s.joypadReads then 1 else 0, { s with joypadReads := s.joypadReads + 1 })) ∧
    (0x4020 ≤ a → memRead a s = (Memory.read s.fixed.program a.toNat, s)) ∧
    (∀ v, memWrite a v s = none ↔ 0x4020 ≤ a)

/-- Palette RAM: a byte written at any address in $3F00 to $3FFF is read back at every address of its cell, the palette
repeating every 32 bytes and $10, $14, $18, $1C being the cells of $00, $04, $08, $0C; every other palette address reads
as before, and nothing else of the PPU changes (20_memory.md R77, R79; that all 8 bits are stored is decision D21). -/
def Obligations.PaletteIsAliased : Prop :=
  ∀ (fixed : Fixed) (p : Ppu) (a : Addr) (v : Byte), 0x3F00 ≤ a → a ≤ 0x3FFF →
    let q := ppuWrite fixed a v p
    let cell := fun c : Addr => if c.toNat % 4 = 0 then c.toNat % 16 else c.toNat % 32
    q = { p with pal := q.pal } ∧
    (Memory.wf 0 32 p.pal → ∀ b : Addr, 0x3F00 ≤ b → b ≤ 0x3FFF →
      ppuRead fixed q b = if cell a = cell b then v else ppuRead fixed p b)

/-- The PPU bus below palette RAM, and the fold of its addresses to 14 bits. Below $2000 a read answers the cartridge's
tile byte at that address and a write is dropped. Nametable RAM: a byte written at any address in $2000 to $3EFF is read
back wherever the mirroring mode puts its cell, every other nametable address reads as before, and nothing else of the PPU
changes (20_memory.md R73, R74, R75, R76, R79; the reading of the two modes is decision D20, the fold and the dropped
write D21). -/
def Obligations.NametablesAreMirrored : Prop :=
  ∀ (fixed : Fixed) (p : Ppu) (a : Addr) (v : Byte),
    let q := ppuWrite fixed a v p
    let n := fun c : Addr => c.toNat / 1024 % 4
    let bank := fun c : Addr => if fixed.mirroring = .horizontal then n c / 2 else n c % 2
    (ppuRead fixed p a = ppuRead fixed p (BitVec.ofNat 16 (a.toNat % 16384)) ∧
      q = ppuWrite fixed (BitVec.ofNat 16 (a.toNat % 16384)) v p) ∧
    (a ≤ 0x1FFF → ppuRead fixed p a = Memory.read fixed.tiles a.toNat ∧ q = p) ∧
    (0x2000 ≤ a → a ≤ 0x3EFF →
      q = { p with nt := q.nt } ∧
      (Memory.wf 0 2048 p.nt → ∀ b : Addr, 0x2000 ≤ b → b ≤ 0x3EFF →
        ppuRead fixed q b =
          if bank a = bank b ∧ a.toNat % 1024 = b.toNat % 1024 then v else ppuRead fixed p b))

/-! PPU registers -/

/-- A read of the status register returns its three bits and clears VBlank and the write toggle, and nothing else
changes (50_ppu_registers.md R257; the low five bits read 0 by decision D25). -/
def Obligations.StatusReadClearsVblankAndToggle : Prop :=
  ∀ (a : Addr) (s : State), 0x2000 ≤ a → a ≤ 0x3FFF → a.toNat % 8 = 2 →
    (memRead a s).1 = s.ppu.status &&& 0xE0 ∧
    ∃ status : Byte, (memRead a s).2 = s.setPpu { s.ppu with status := status, w := false } ∧
      status.getLsbD 7 = false ∧ ∀ k < 7, status.getLsbD k = s.ppu.status.getLsbD k

/-- The control, scroll and address writes on the fields of `t`, with the shared toggle
(50_ppu_registers.md R252, R262 to R266; the packing is decision D28). -/
def Obligations.ScrollAndAddressWritesPackT : Prop :=
  ∀ (fixed : Fixed) (d : Byte) (p : Ppu),
    (let q := ppuRegWrite fixed 0 d p;
      q = { p with ctrl := d, t := q.t } ∧ nametableSelect q.t = d.setWidth 2 ∧ coarseX q.t = coarseX p.t ∧
      coarseY q.t = coarseY p.t ∧ fineY q.t = fineY p.t) ∧
    (p.w = false → let q := ppuRegWrite fixed 5 d p;
      q = { p with t := q.t, x := d.setWidth 3, w := true } ∧ coarseX q.t = (d >>> 3).setWidth 5 ∧
      coarseY q.t = coarseY p.t ∧ nametableSelect q.t = nametableSelect p.t ∧ fineY q.t = fineY p.t) ∧
    (p.w = true → let q := ppuRegWrite fixed 5 d p;
      q = { p with t := q.t, w := false } ∧ fineY q.t = d.setWidth 3 ∧ coarseY q.t = (d >>> 3).setWidth 5 ∧
      coarseX q.t = coarseX p.t ∧ nametableSelect q.t = nametableSelect p.t) ∧
    (p.w = false → let q := ppuRegWrite fixed 6 d p;
      q = { p with t := q.t, w := true } ∧ q.t.toNat = d.toNat % 64 * 256 + p.t.toNat % 256) ∧
    (p.w = true → let q := ppuRegWrite fixed 6 d p;
      q = { p with t := q.t, v := q.t, w := false } ∧ q.t.toNat = p.t.toNat / 256 * 256 + d.toNat)

/-- The data register: a read below palette space returns what the read before it fetched, a palette read returns its
byte at once, a write goes to the PPU bus, and every access adds 1 or 32 to `v`
(50_ppu_registers.md R267 to R269; what the buffer takes on a palette read is decision D26). -/
def Obligations.DataRegisterIsDelayed : Prop :=
  ∀ (fixed : Fixed) (p : Ppu) (d : Byte),
    let inc : Nat := if p.ctrl.getLsbD 2 then 32 else 1
    let a := p.v.toNat % 16384
    let here := ppuRead fixed p (BitVec.ofNat 16 a)
    let first := ppuRegRead fixed 7 p
    let second := ppuRegRead fixed 7 first.2
    first.2 = { p with dataBuffer := here, v := BitVec.ofNat 15 (p.v.toNat + inc) } ∧
    (a < 0x3F00 → first.1 = p.dataBuffer) ∧
    (0x3F00 ≤ a → first.1 = here) ∧
    ((a + inc) % 16384 < 0x3F00 → second.1 = here) ∧
    ppuRegWrite fixed 7 d p =
      { ppuWrite fixed (BitVec.ofNat 16 a) d p with v := BitVec.ofNat 15 (p.v.toNat + inc) }

/-- The OAM registers: a write of the data register stores the whole byte and moves the address on, a read does neither,
a write of the address register sets it (50_ppu_registers.md R258 to R260; decision D27). -/
def Obligations.OamDataRegister : Prop :=
  ∀ (fixed : Fixed) (p : Ppu) (d : Byte), Memory.wf 0 256 p.oam →
    ppuRegRead fixed 4 p = (Memory.read p.oam p.oamAddr.toNat, p) ∧
    ppuRegWrite fixed 3 d p = { p with oamAddr := d } ∧
    (let q := ppuRegWrite fixed 4 d p;
      q = { p with oam := q.oam, oamAddr := BitVec.ofNat 8 (p.oamAddr.toNat + 1) } ∧
      ∀ k, Memory.read q.oam k = if k = p.oamAddr.toNat then d else Memory.read p.oam k)

/-- A write of the mask register stores the byte, a write of the status register is dropped, and reads of the five
write-only registers (control, mask, OAM address, scroll, address) return 0 and change nothing
(50_ppu_registers.md R250, R251, R254, R261; decisions D23, D24). -/
def Obligations.MaskWriteAndDroppedAccesses : Prop :=
  ∀ (fixed : Fixed) (p : Ppu) (d : Byte),
    ppuRegWrite fixed 1 d p = { p with mask := d } ∧
    ppuRegWrite fixed 2 d p = p ∧
    ∀ n ∈ ([0, 1, 3, 5, 6] : List (BitVec 3)), ppuRegRead fixed n p = (0, p)

/-! The PPU tick -/

/-- `v` and the OAM address in one PPU tick of a rendering line: coarse X at every eighth sub-cycle of the fetch groups, Y
at cycle 255, the horizontal reload at 256, the vertical reload on the prerender line, the OAM address 0 at cycles 256 to
319; in every other tick both are unchanged (51_ppu_rendering.md R291, R295, R300 to R303, R307; the sub-cycle is decision
D31, the gate D29, the prerender line D30). -/
def Obligations.VramAddressDuringRendering : Prop :=
  ∀ s : State,
    let p := s.ppu
    let c := p.cycle
    let line := p.renderingEnabled = true ∧ -1 ≤ p.scanline ∧ p.scanline ≤ 239
    let v := (ppuTick s).ppu.v
    (line → c % 8 = 7 → c < 255 ∨ (320 ≤ c ∧ c ≤ 335) → v = incXv p.v) ∧
    (line → c = 255 → v = incYv (incXv p.v)) ∧
    (line → c = 256 → v = resetXv p.v p.t) ∧
    (line → p.scanline = -1 → 280 ≤ c → c ≤ 304 → v = resetYv p.v p.t) ∧
    (¬(line ∧ ((c % 8 = 7 ∧ (c ≤ 255 ∨ (320 ≤ c ∧ c ≤ 335))) ∨ c = 256 ∨
        (p.scanline = -1 ∧ 280 ≤ c ∧ c ≤ 304))) → v = p.v) ∧
    (line → 256 ≤ c → c ≤ 319 → (ppuTick s).ppu.oamAddr = 0) ∧
    (¬(line ∧ 256 ≤ c ∧ c ≤ 319) → (ppuTick s).ppu.oamAddr = p.oamAddr)

/-- What the four updates of `v` do to its fields (51_ppu_rendering.md R300 to R303, 10_state.md R32): coarse X counts
modulo 32 and flips the horizontal nametable bit at 31; fine Y counts modulo 8, coarse Y counts at fine Y 7, wraps at 29
flipping the vertical bit and at 31 not flipping it; the reloads copy the X or the Y fields of `t`. -/
def Obligations.ScrollUpdatesMoveTheirFields : Prop :=
  ∀ v t : BitVec 15,
    (coarseX (incXv v) = coarseX v + 1 ∧ coarseY (incXv v) = coarseY v ∧ fineY (incXv v) = fineY v ∧
      nametableSelect (incXv v) = if coarseX v = 31 then nametableSelect v ^^^ 1 else nametableSelect v) ∧
    (fineY (incYv v) = fineY v + 1 ∧ coarseX (incYv v) = coarseX v ∧
      coarseY (incYv v) = (if fineY v = 7 then (if coarseY v = 29 then 0 else coarseY v + 1) else coarseY v) ∧
      nametableSelect (incYv v) =
        if fineY v = 7 ∧ coarseY v = 29 then nametableSelect v ^^^ 2 else nametableSelect v) ∧
    (coarseX (resetXv v t) = coarseX t ∧ (nametableSelect (resetXv v t)).getLsbD 0 = (nametableSelect t).getLsbD 0 ∧
      (nametableSelect (resetXv v t)).getLsbD 1 = (nametableSelect v).getLsbD 1 ∧
      coarseY (resetXv v t) = coarseY v ∧ fineY (resetXv v t) = fineY v) ∧
    (coarseX (resetYv v t) = coarseX v ∧ (nametableSelect (resetYv v t)).getLsbD 0 = (nametableSelect v).getLsbD 0 ∧
      (nametableSelect (resetYv v t)).getLsbD 1 = (nametableSelect t).getLsbD 1 ∧
      coarseY (resetYv v t) = coarseY t ∧ fineY (resetYv v t) = fineY t)

/-- The frame of a PPU tick on the PPU. No tick, at any position, rendering or not, writes `t`, fine X, the write toggle,
the control and mask registers, the data buffer, OAM, nametable RAM or palette RAM (51_ppu_rendering.md R291, R322). With
both mask enables clear a tick leaves `v`, the OAM address, the shift registers, the latches and secondary OAM alone as well
(R292; the gate is decision D29). -/
def Obligations.RenderingGateHoldsThePpu : Prop :=
  ∀ s : State,
    let p := s.ppu
    let q := (ppuTick s).ppu
    (q.t = p.t ∧ q.x = p.x ∧ q.w = p.w ∧ q.ctrl = p.ctrl ∧ q.mask = p.mask ∧ q.dataBuffer = p.dataBuffer ∧
      q.oam = p.oam ∧ q.nt = p.nt ∧ q.pal = p.pal) ∧
    (p.mask.getLsbD 3 = false → p.mask.getLsbD 4 = false →
      q = { p with
        status := q.status, slots := q.slots, spriteCount := q.spriteCount, spr0Line := q.spr0Line,
        scanline := q.scanline, cycle := q.cycle } ∧
      (¬(p.scanline = -1 ∧ p.cycle = 0) →
        q.slots = p.slots ∧ q.spriteCount = p.spriteCount ∧ q.spr0Line = p.spr0Line))

/-- The background pipeline in one PPU tick of a fetch cycle of a rendering line: every cycle shifts, sub-cycle 0 loads
the shift registers from the latches and fetches the tile number, sub-cycles 2, 4 and 6 fetch the attribute and the two
pattern bytes, and no other latch changes; in every other tick the shift registers and latches hold; a load replaces the
low byte of a shift register, an attribute bit being eight equal bits; and the four fetch addresses as numbers, from the
fields of `v` (51_ppu_rendering.md R291, R292, R294 to R299, 10_state.md R32; the sub-cycles are decision D31, the gate D29,
the prerender line D30). -/
def Obligations.BackgroundPipelineFetches : Prop :=
  (∀ s : State,
    let p := s.ppu
    let q := (ppuTick s).ppu
    let sub := p.cycle % 8
    p.renderingEnabled = true → -1 ≤ p.scanline → p.scanline ≤ 239 →
    p.cycle ≤ 255 ∨ (320 ≤ p.cycle ∧ p.cycle ≤ 335) →
    (q.bgPatLo = if sub = 0 then loadLow (p.bgPatLo <<< 1) p.nextPatLo else p.bgPatLo <<< 1) ∧
    (q.bgPatHi = if sub = 0 then loadLow (p.bgPatHi <<< 1) p.nextPatHi else p.bgPatHi <<< 1) ∧
    (q.bgAttrLo = if sub = 0 then loadLow (p.bgAttrLo <<< 1) (spreadBit (p.nextAttr.getLsbD 0))
      else p.bgAttrLo <<< 1) ∧
    (q.bgAttrHi = if sub = 0 then loadLow (p.bgAttrHi <<< 1) (spreadBit (p.nextAttr.getLsbD 1))
      else p.bgAttrHi <<< 1) ∧
    (q.nextTileId = if sub = 0 then ppuRead s.fixed p (nametableAddr p.v) else p.nextTileId) ∧
    (q.nextAttr = if sub = 2 then (ppuRead s.fixed p (attributeAddr p.v) >>> attributeShift p.v).setWidth 2
      else p.nextAttr) ∧
    (q.nextPatLo = if sub = 4 then ppuRead s.fixed p (bgPatternAddr p) else p.nextPatLo) ∧
    (q.nextPatHi = if sub = 6 then ppuRead s.fixed p (bgPatternAddr p + 8) else p.nextPatHi)) ∧
  (∀ s : State,
    let p := s.ppu
    let q := (ppuTick s).ppu
    ¬(p.renderingEnabled = true ∧ -1 ≤ p.scanline ∧ p.scanline ≤ 239 ∧
      (p.cycle ≤ 255 ∨ (320 ≤ p.cycle ∧ p.cycle ≤ 335))) →
    q.bgPatLo = p.bgPatLo ∧ q.bgPatHi = p.bgPatHi ∧ q.bgAttrLo = p.bgAttrLo ∧ q.bgAttrHi = p.bgAttrHi ∧
    q.nextTileId = p.nextTileId ∧ q.nextAttr = p.nextAttr ∧ q.nextPatLo = p.nextPatLo ∧ q.nextPatHi = p.nextPatHi) ∧
  (∀ (r : BitVec 16) (b : Byte), (loadLow r b).toNat = r.toNat / 256 * 256 + b.toNat) ∧
  spreadBit true = 0xFF ∧ spreadBit false = 0x00 ∧
  (∀ p : Ppu,
    let v := p.v
    let nt := (nametableSelect v).toNat
    let cx := (coarseX v).toNat
    let cy := (coarseY v).toNat
    (nametableAddr v).toNat = 0x2000 + 0x400 * nt + 32 * cy + cx ∧
    (attributeAddr v).toNat = 0x23C0 + 0x400 * nt + 8 * (cy / 4) + cx / 4 ∧
    attributeShift v = 4 * (cy / 2 % 2) + 2 * (cx / 2 % 2) ∧
    (bgPatternAddr p).toNat = 0x1000 * (p.ctrl.getLsbD 4).toNat + 16 * p.nextTileId.toNat + (fineY v).toNat)

/-- The PPU raises NMI in the tick that finds it at (241, 0) with control bit 7 set, and in no other tick does it touch
the CPU or RAM; in every tick it leaves the DMA unit, the fault bit, the joypads, the cartridge and the clock alone
(60_exceptions.md R375, 51_ppu_rendering.md R291, R325). -/
def Obligations.NmiOnlyAtVblankEntry : Prop :=
  ∀ s : State,
    let nmi := s.ppu.scanline = 241 ∧ s.ppu.cycle = 0 ∧ s.ppu.ctrl.getLsbD 7 = true
    (nmi → (ppuTick s).cpu = (enterNmi s).cpu ∧ (ppuTick s).ram = (enterNmi s).ram) ∧
    (¬nmi → (ppuTick s).cpu = s.cpu ∧ (ppuTick s).ram = s.ram) ∧
    (ppuTick s).dma = s.dma ∧ (ppuTick s).fatal = s.fatal ∧ (ppuTick s).joypadReads = s.joypadReads ∧
    (ppuTick s).fixed = s.fixed ∧ (ppuTick s).g = s.g

/-- The status events: VBlank is set in the tick at (241, 0); the tick at (-1, 0) clears the three status bits and the
shadow slots; every other tick leaves the VBlank bit alone and clears neither of the other two; the sprite-0-hit bit is set
by a visible tick with a hit and by no other; the overflow bit is set by the tick at cycle 255 of a visible line with
rendering enabled, when more than eight entries match, and by no other
(51_ppu_rendering.md R309, R310, R311, R320, R323, R325, R328, 50_ppu_registers.md R256; the evaluation is decision D33, the
hit D34, the gate D29). The hit is that of the PPU after the tick's rendering stage. -/
def Obligations.StatusEventsAtTheirPositions : Prop :=
  ∀ s : State,
    let p := s.ppu
    let q := (ppuTick s).ppu
    (p.scanline = 241 → p.cycle = 0 → q.status = p.status ||| 0x80) ∧
    (p.scanline = -1 → p.cycle = 0 → p.status &&& 0x1F = 0 →
      q.status = 0 ∧ q.slots = List.replicate 8 { patLo := 0, patHi := 0, attr := 0, x := 0 } ∧
      q.spriteCount = 0 ∧ q.spr0Line = false) ∧
    (¬(p.scanline = 241 ∧ p.cycle = 0) → ¬(p.scanline = -1 ∧ p.cycle = 0) →
      q.status.getLsbD 7 = p.status.getLsbD 7 ∧
      (p.status.getLsbD 6 = true → q.status.getLsbD 6 = true) ∧
      (p.status.getLsbD 5 = true → q.status.getLsbD 5 = true)) ∧
    (240 ≤ p.scanline → ¬(p.scanline = 241 ∧ p.cycle = 0) →
      q = { p with scanline := q.scanline, cycle := q.cycle }) ∧
    (let visible := 0 ≤ p.scanline ∧ p.scanline ≤ 239 ∧ p.cycle ≤ 255;
      (visible → q.status.getLsbD 6 = (p.status.getLsbD 6 || spriteZeroHit s.fixed (renderStage s).ppu)) ∧
      (¬visible → ¬(p.scanline = -1 ∧ p.cycle = 0) → q.status.getLsbD 6 = p.status.getLsbD 6)) ∧
    (let evaluated := p.renderingEnabled = true ∧ 0 ≤ p.scanline ∧ p.scanline ≤ 239 ∧ p.cycle = 255
      let height : Int := if p.ctrl.getLsbD 5 then 16 else 8
      let y := fun n => (Memory.read p.oam (4 * n)).toNat
      let found := (List.range 64).filter fun n =>
        decide ((y n : Int) ≤ p.scanline) && decide (p.scanline < (y n : Int) + height);
      (evaluated → q.status.getLsbD 5 = (p.status.getLsbD 5 || decide (8 < found.length))) ∧
      (¬evaluated → ¬(p.scanline = -1 ∧ p.cycle = 0) → q.status.getLsbD 5 = p.status.getLsbD 5))

/-- One `drawPixel` in every visible tick and in no other. Its colour is `pixelColor` of the PPU after the tick's rendering
stage, the palette byte MultiplexerAndSpriteZeroHit describes, and with rendering disabled the backdrop's
(51_ppu_rendering.md R317, R292, R322, 52_clock_dma.md R353; the backdrop for two transparent layers is decision D36, the
order of the stages D31, the gate D29). -/
def Obligations.EveryVisibleTickDrawsOnePixel : Prop :=
  ∀ s : State,
    let visible := 0 ≤ s.ppu.scanline ∧ s.ppu.scanline ≤ 239 ∧ s.ppu.cycle ≤ 255
    let color := pixelColor s.fixed (renderStage s).ppu
    (visible → (ppuTick s).trace = .drawPixel s.ppu.cycle s.ppu.scanline.toNat color :: s.trace) ∧
    (visible → s.ppu.renderingEnabled = false → color = Memory.read s.ppu.pal 0) ∧
    (¬visible → (ppuTick s).trace = s.trace ∨ (ppuTick s).trace = .presentFrame :: s.trace)

/-- The foreground pixel is that of the first slot whose countdown is zero and whose pattern bits are not both zero, and
there is none without such a slot or with sprites disabled (51_ppu_rendering.md R319). -/
def Obligations.ForegroundIsTheFirstOpaqueSlot : Prop :=
  ∀ p : Ppu,
    let opaqueSlot := fun q : SpriteSlot => q.x = 0 ∧ (q.patHi.getLsbD 7 = true ∨ q.patLo.getLsbD 7 = true)
    (∀ f, foregroundPixel p = some f →
      p.mask.getLsbD 4 = true ∧
      ∃ q, p.slots[f.slot]? = some q ∧ opaqueSlot q ∧
        f.pixel.px = 2 * (q.patHi.getLsbD 7).toNat + (q.patLo.getLsbD 7).toNat ∧
        f.pixel.pal = q.attr.toNat % 4 + 4 ∧ f.front = !q.attr.getLsbD 5 ∧
        ∀ j < f.slot, ∀ q', p.slots[j]? = some q' → ¬opaqueSlot q') ∧
    (foregroundPixel p = none ↔ p.mask.getLsbD 4 = false ∨ ∀ q ∈ p.slots, ¬opaqueSlot q)

/-- The background pixel, bit 15 minus fine X of the shift registers and transparent with background rendering disabled
(51_ppu_rendering.md R318), the multiplexer and the palette address it leads to (R321, R322; the first row, both layers
transparent, is decision D36), and the sprite-0 hit, which needs no opaque background (R320; decision D34; the excluded
cycle is a parameter). -/
def Obligations.MultiplexerAndSpriteZeroHit : Prop :=
  (∀ p : Ppu,
    let k := 15 - p.x.toNat
    (p.mask.getLsbD 3 = false → backgroundPixel p = { pal := 0, px := 0 }) ∧
    (p.mask.getLsbD 3 = true → backgroundPixel p =
      { pal := 2 * (p.bgAttrHi.getLsbD k).toNat + (p.bgAttrLo.getLsbD k).toNat,
        px := 2 * (p.bgPatHi.getLsbD k).toNat + (p.bgPatLo.getLsbD k).toNat })) ∧
  (∀ (bg : Pixel) (f : Foreground),
    (bg.px = 0 → muxPixel bg none = { pal := 0, px := 0 }) ∧
    (bg.px ≠ 0 → muxPixel bg none = bg) ∧
    (bg.px = 0 → muxPixel bg (some f) = f.pixel) ∧
    (bg.px ≠ 0 → muxPixel bg (some f) = if f.front then f.pixel else bg)) ∧
  (∀ (fixed : Fixed) (p : Ppu),
    pixelColor fixed p = ppuRead fixed p (BitVec.ofNat 16
      (0x3F00 + 4 * (muxPixel (backgroundPixel p) (foregroundPixel p)).pal +
        (muxPixel (backgroundPixel p) (foregroundPixel p)).px))) ∧
  (∀ (fixed : Fixed) (p : Ppu), (spriteZeroHit fixed p = true ↔
    ∃ f, foregroundPixel p = some f ∧ f.slot = 0 ∧ p.spr0Line = true ∧
      p.cycle ≠ fixed.params.sprite0ExcludedCycle))

/-- Sprite evaluation: the entries that match, in OAM order, are copied into secondary OAM up to eight; the overflow bit
is set exactly when there is a ninth, and otherwise the status is unchanged; entry 0 is flagged exactly when it matches
(51_ppu_rendering.md R310, R311; its details are decision D33). -/
def Obligations.SpriteEvaluationKeepsTheFirstEight : Prop :=
  ∀ p : Ppu, Memory.wf 0 32 p.secOam →
    let height : Int := if p.ctrl.getLsbD 5 then 16 else 8
    let y := fun n => (Memory.read p.oam (4 * n)).toNat
    let found := (List.range 64).filter fun n =>
      decide ((y n : Int) ≤ p.scanline) && decide (p.scanline < (y n : Int) + height)
    let q := spriteEvaluate p
    q = { p with secOam := q.secOam, spriteCount := q.spriteCount, spr0Next := q.spr0Next, status := q.status } ∧
    q.spriteCount = min 8 found.length ∧
    q.status = (if 8 < found.length then p.status ||| 0x20 else p.status) ∧
    (q.spr0Next = true ↔ 0 ∈ found) ∧
    (∀ j n, j < 8 → found[j]? = some n →
      ∀ k < 4, Memory.read q.secOam (4 * j + k) = Memory.read p.oam (4 * n + k))

/-- The shadow slots and what evaluation writes, in one PPU tick: with rendering enabled a visible tick before cycle 255
steps every slot, a countdown first and then a shift; the tick at cycle 255 evaluates OAM and refills the eight slots, the
unused ones cleared; a tick that is neither changes none of them but for the clear at (-1, 0)
(51_ppu_rendering.md R291, R309, R312, R316, R323; decisions D29, D31, D33). -/
def Obligations.SpriteSlotsFollowTheirTicks : Prop :=
  ∀ s : State,
    let p := s.ppu
    let q := (ppuTick s).ppu
    let e := spriteEvaluate p
    let active := p.renderingEnabled = true ∧ 0 ≤ p.scanline ∧ p.scanline ≤ 239 ∧ p.cycle ≤ 255
    (active → p.cycle ≠ 255 →
      q.slots = p.slots.map fun l => if l.x = 0 then
          { l with patLo := BitVec.ofNat 8 (2 * l.patLo.toNat), patHi := BitVec.ofNat 8 (2 * l.patHi.toNat) }
        else { l with x := BitVec.ofNat 8 (l.x.toNat - 1) }) ∧
    (active → p.cycle = 255 →
      q.secOam = e.secOam ∧ q.spriteCount = e.spriteCount ∧ q.spr0Next = e.spr0Next ∧ q.spr0Line = e.spr0Next ∧
      q.slots = (List.range 8).map fun i =>
        if i < e.spriteCount then fetchSlot s.fixed e i else { patLo := 0, patHi := 0, attr := 0, x := 0 }) ∧
    (¬(active ∧ p.cycle = 255) →
      q.secOam = p.secOam ∧ q.spr0Next = p.spr0Next ∧
      (¬(p.scanline = -1 ∧ p.cycle = 0) → q.spriteCount = p.spriteCount ∧ q.spr0Line = p.spr0Line)) ∧
    (¬active → ¬(p.scanline = -1 ∧ p.cycle = 0) → q.slots = p.slots)

/-- The slot fetched for an entry of secondary OAM whose row `d` lies in the sprite: attribute and X as they stand, the two
pattern bytes from the address of the row, counted from the bottom with vertical flip, in the 8x16 mode from the table of
the tile's bit 0, and their bits reversed with horizontal flip
(51_ppu_rendering.md R312, R313, R314, 10_state.md R35; decision D37). -/
def Obligations.SpriteFetchBuildsTheSlot : Prop :=
  ∀ (fixed : Fixed) (p : Ppu) (i : Nat),
    let byte := fun k => Memory.read p.secOam (4 * i + k)
    let tile := (byte 1).toNat
    let attr := byte 2
    let tall := p.ctrl.getLsbD 5
    let height := if tall then 16 else 8
    ∀ d : Nat, d < height → p.scanline = (byte 0).toNat + d →
    let row := if attr.getLsbD 7 then height - 1 - d else d
    let addr := if tall then 0x1000 * (tile % 2) + 16 * (tile / 2 * 2 + row / 8) + row % 8
      else 0x1000 * (p.ctrl.getLsbD 3).toNat + 16 * tile + row
    let lo := ppuRead fixed p (BitVec.ofNat 16 addr)
    let hi := ppuRead fixed p (BitVec.ofNat 16 (addr + 8))
    let slot := fetchSlot fixed p i
    slot.attr = attr ∧ slot.x = byte 3 ∧
    ∀ k < 8, slot.patLo.getLsbD k = lo.getLsbD (if attr.getLsbD 6 then 7 - k else k) ∧
      slot.patHi.getLsbD k = hi.getLsbD (if attr.getLsbD 6 then 7 - k else k)

/-! OAM DMA -/

/-- A whole OAM DMA transfer from a page of RAM or of the cartridge, with no PPU tick between its CPU ticks: the CPU is
stalled for 513 CPU ticks when the write that started it executed in an even CPU tick and for 514 when in an odd one, OAM
then holds the page, and nothing else has changed (52_clock_dma.md R347 to R349; the state machine is decision D39).
DmaReadsAnyPageThroughTheBus says the same of every page. -/
def Obligations.DmaCopiesOnePage : Prop :=
  ∀ (d : Byte) (s : State), s.g % 3 = 0 → d ≤ 0x1F ∨ 0x41 ≤ d → Memory.wf 0 256 s.ppu.oam →
    let u := dmaStart d s
    let n := if s.g / 3 % 2 = 0 then 513 else 514
    (∀ k < n, (dmaTicks k u).dma.active = true) ∧
    let t := dmaTicks n u
    t.dma.active = false ∧ t.dma.dummy = true ∧ t.dma.index = 0 ∧ t.g = s.g + 3 * n ∧
    (∀ k < 256, Memory.read t.ppu.oam k = byteAt s (mkAddr d (BitVec.ofNat 8 k))) ∧
    t.ppu = { s.ppu with oam := t.ppu.oam, oamAddr := 0 } ∧
    t.cpu = s.cpu ∧ t.ram = s.ram ∧ t.fatal = s.fatal ∧ t.fixed = s.fixed ∧ t.trace = s.trace ∧
    t.joypadReads = s.joypadReads

/-- A whole OAM DMA transfer from any page, with no PPU tick between its CPU ticks: byte after byte is read through the
whole CPU bus decode, with the side effects of PPU registers and joypad ports in pages $20 to $40, and stored in OAM before
the next is read; the CPU, RAM, the cartridge and the trace are unchanged (52_clock_dma.md R347 to R349; decision D39). -/
def Obligations.DmaReadsAnyPageThroughTheBus : Prop :=
  ∀ (d : Byte) (s : State), s.g % 3 = 0 →
    let u := dmaStart d s
    let n := if s.g / 3 % 2 = 0 then 513 else 514
    (∀ k < n, (dmaTicks k u).dma.active = true) ∧
    let t := dmaTicks n u
    let c := dmaCopied d 256 u
    t.dma.active = false ∧ t.dma.dummy = true ∧ t.dma.index = 0 ∧ t.g = s.g + 3 * n ∧
    t.ppu = c.ppu ∧ t.joypadReads = c.joypadReads ∧
    t.cpu = s.cpu ∧ t.ram = s.ram ∧ t.fatal = s.fatal ∧ t.fixed = s.fixed ∧ t.trace = s.trace

/-! Addressing -/

/-- The effective addresses as numbers, and when a page crossing is reported (40_addressing.md R124, R125, R126, R128,
R129, R130, R132, R133); for all 13 modes what resolution returns and which bytes it reads at `pc` (R120 to R133): none in
implied, accumulator and immediate mode, the latter's byte being left to the fetch stage; and what the fetch stage answers:
the immediate byte and the accumulator with no bus read, and for a memory operand the one CPU bus read at its effective
address, with that read's effect (R134). -/
def Obligations.EffectiveAddresses : Prop :=
  ∀ (s : State) (b : Byte) (w : Addr),
    let x := s.cpu.x.toNat
    let y := s.cpu.y.toNat
    let zp := fun n : Nat => (byteAt s (BitVec.ofNat 16 (n % 256))).toNat
    let ptr := zp b.toNat + 256 * zp (b.toNat + 1)
    ((resolve (.zp b) s).ea.toNat = b.toNat ∧ (resolve (.zp b) s).crossed = false) ∧
    ((resolve (.zpx b) s).ea.toNat = (b.toNat + x) % 256 ∧ (resolve (.zpx b) s).crossed = false) ∧
    ((resolve (.zpy b) s).ea.toNat = (b.toNat + y) % 256 ∧ (resolve (.zpy b) s).crossed = false) ∧
    ((resolve (.abs w) s).ea = w ∧ (resolve (.abs w) s).crossed = false) ∧
    ((resolve (.abx w) s).ea.toNat = (w.toNat + x) % 65536 ∧
      (resolve (.abx w) s).crossed = decide (255 < w.toNat % 256 + x)) ∧
    ((resolve (.aby w) s).ea.toNat = (w.toNat + y) % 65536 ∧
      (resolve (.aby w) s).crossed = decide (255 < w.toNat % 256 + y)) ∧
    ((resolve (.izx b) s).ea.toNat = zp (b.toNat + x) + 256 * zp (b.toNat + x + 1) ∧
      (resolve (.izx b) s).crossed = false) ∧
    ((resolve (.izy b) s).ea.toNat = (ptr + y) % 65536 ∧
      (resolve (.izy b) s).crossed = decide (255 < ptr % 256 + y)) ∧
    (resolveMode .imp s = (⟨0, false, .none⟩, s) ∧ resolveMode .acc s = (⟨0, false, .acc⟩, s) ∧
      resolveMode .imm s = (⟨s.cpu.pc, false, .mem⟩, s.setCpu (s.cpu.setPc (s.cpu.pc + 1)))) ∧
    (let u := (fetchBytes 1 s).2;
      (fetchBytes 1 s).1 = [b] →
      (∀ mm : Mode × MemOperand,
        mm ∈ [(.zp, .zp b), (.zpx, .zpx b), (.zpy, .zpy b), (.izx, .izx b), (.izy, .izy b)] →
        resolveMode mm.1 s = (⟨(resolve mm.2 u).ea, (resolve mm.2 u).crossed, .mem⟩, u)) ∧
      resolveMode .rel s = (⟨branchDestination u.cpu.pc b, false, .mem⟩, u)) ∧
    (let u := (fetchBytes 2 s).2;
      (fetchBytes 2 s).1 = [loByte w, hiByte w] →
      (∀ mm : Mode × MemOperand, mm ∈ [(.abs, .abs w), (.abx, .abx w), (.aby, .aby w)] →
        resolveMode mm.1 s = (⟨(resolve mm.2 u).ea, (resolve mm.2 u).crossed, .mem⟩, u)) ∧
      resolveMode .ind s = (⟨(resolveIndirect w u).1, false, .mem⟩, (resolveIndirect w u).2)) ∧
    (fetchOperand (.imm b) s = (b, s) ∧ fetchOperand .acc s = (s.cpu.a, s) ∧
      ∀ m : MemOperand, fetchOperand (.mem m) s = memRead (resolve m s).ea s)

/-! Loads and stores -/

/-- LDA, LDX, LDY in every form (41_load_store.md R141, R142, R143): the register takes the operand byte, Z and N are
set from it, every other register, flag and byte of memory is unchanged, and outside the CPU only the one operand read
has had its effect. -/
def Obligations.LoadsTakeTheOperandByte : Prop :=
  ∀ (i : Instr) (r : Source) (s : State), i.operand = .src r →
    i.operation = .lda ∨ i.operation = .ldx ∨ i.operation = .ldy →
    let m := (fetchOperand r s).1
    let u := (fetchOperand r s).2
    ∃ t, exec i s = .next t ∧
      RegistersAre u t (if i.operation = .lda then m else s.cpu.a) (if i.operation = .ldx then m else s.cpu.x)
        (if i.operation = .ldy then m else s.cpu.y) s.cpu.sp s.cpu.pc
        (patternCost i.operation i.mode + crossCost i s) ∧
      ZNOf m t.cpu ∧ SameFlagsBut [.z, .n] s.cpu t.cpu ∧ MemoryKept s t

/-- STA, STX, STY in every form whose effective address is not the cartridge's
(41_load_store.md R144, R145, R146, 20_memory.md R62 to R65, 52_clock_dma.md R347). In RAM: the register's byte is at the
effective address, every other byte, register and flag is unchanged. In a device: the device's effect happens, registers,
flags, RAM and the cartridge are unchanged; the split of $4000 to $401F is decision D18. -/
def Obligations.StoresWriteTheirTarget : Prop :=
  (∀ (i : Instr) (m : MemOperand) (v : Byte) (s : State), i.operand = .src (.mem m) →
    storeValue i.operation s.cpu = some v → Memory.wf 0 2048 s.ram →
    let ea := (resolve m s).ea
    ea ≤ 0x1FFF →
    ∃ t, exec i s = .next t ∧ RamAfterWrite ea v s t ∧ (∀ b, 0x4020 ≤ b → byteAt t b = byteAt s b) ∧
      SameRegisters s.cpu t.cpu ∧ t.cpu.p = s.cpu.p ∧ SameOutsideCpuAndRam s t ∧
      t.cpu.cyc = patternCost i.operation i.mode) ∧
  (∀ (i : Instr) (m : MemOperand) (v : Byte) (s : State), i.operand = .src (.mem m) →
    storeValue i.operation s.cpu = some v →
    let ea := (resolve m s).ea
    0x2000 ≤ ea → ea ≤ 0x401F →
    ∃ t, exec i s = .next t ∧ SameRegisters s.cpu t.cpu ∧ t.cpu.p = s.cpu.p ∧
      t.cpu.cyc = patternCost i.operation i.mode ∧ MemoryKept s t ∧ t.ram = s.ram ∧ t.fixed = s.fixed ∧
      t.fatal = s.fatal ∧ t.g = s.g ∧ t.joypadReads = s.joypadReads ∧
      (t.ppu =
        if ea ≤ 0x3FFF then ppuRegWrite s.fixed (BitVec.ofNat 3 (ea.toNat % 8)) v s.ppu
        else if ea = 0x4014 then { s.ppu with oamAddr := 0 } else s.ppu) ∧
      (t.dma = if ea = 0x4014 then { active := true, dummy := true, page := v, index := 0, data := s.dma.data }
        else s.dma) ∧
      (t.trace =
        if ea = 0x4016 then .joypadStrobe (decide (v.toNat % 2 = 1)) :: s.trace
        else if 0x4000 ≤ ea ∧ ea ≤ 0x4017 ∧ ea ≠ 0x4014 then .audioWrite ea v :: s.trace
        else s.trace))

/-- Every form of STA, STX, STY and every memory form of INC, DEC, ASL, LSR, ROL, ROR whose effective address is the
cartridge's: the fault bit is set with the address and the byte, the carry a shift wrote before its write is kept, and
nothing else changes, `cyc` included (60_exceptions.md R385, 20_memory.md R67, 45_incdec.md R185, 46_shift_rotate.md
R195; the range and what the stop keeps are decision D16, that the stopped machine is a next state is log entry 5). -/
def Obligations.CartridgeWritesAreFatal : Prop :=
  ∀ (i : Instr) (m : MemOperand) (s : State), i.operand = .src (.mem m) →
    let ea := (resolve m s).ea
    let b := Memory.read s.fixed.program ea.toNat
    let carry := s.cpu.flag .c
    0x4020 ≤ ea →
    (∀ v, storeValue i.operation s.cpu = some v →
      exec i s = .next { s with fatal := some { addr := ea, value := v } }) ∧
    (∀ r : Byte, modifyResult i.operation carry b.toNat = some r.toNat →
      ∃ t, exec i s = .next t ∧ t.fatal = some { addr := ea, value := r } ∧ SameDevices s t ∧
        SameRegisters s.cpu t.cpu ∧ t.cpu.cyc = s.cpu.cyc ∧
        t.cpu.flag .c = modifyCarry i.operation carry b.toNat ∧ SameFlagsBut [.c] s.cpu t.cpu)

/-! Transfers and the stack -/

/-- TAX, TAY, TXA, TYA, TSX, TXS (42_transfer_stack.md R151 to R156): the destination takes the source, Z and N are set
from it except by TXS, nothing else changes. -/
def Obligations.TransfersCopyOneRegister : Prop :=
  ∀ s : State,
    let c := s.cpu
    (∃ t, exec .tax s = .next t ∧ RegistersAre s t c.a c.a c.y c.sp c.pc 2 ∧ ZNOf c.a t.cpu ∧
      SameFlagsBut [.z, .n] c t.cpu) ∧
    (∃ t, exec .tay s = .next t ∧ RegistersAre s t c.a c.x c.a c.sp c.pc 2 ∧ ZNOf c.a t.cpu ∧
      SameFlagsBut [.z, .n] c t.cpu) ∧
    (∃ t, exec .txa s = .next t ∧ RegistersAre s t c.x c.x c.y c.sp c.pc 2 ∧ ZNOf c.x t.cpu ∧
      SameFlagsBut [.z, .n] c t.cpu) ∧
    (∃ t, exec .tya s = .next t ∧ RegistersAre s t c.y c.x c.y c.sp c.pc 2 ∧ ZNOf c.y t.cpu ∧
      SameFlagsBut [.z, .n] c t.cpu) ∧
    (∃ t, exec .tsx s = .next t ∧ RegistersAre s t c.a c.sp c.y c.sp c.pc 2 ∧ ZNOf c.sp t.cpu ∧
      SameFlagsBut [.z, .n] c t.cpu) ∧
    (∃ t, exec .txs s = .next t ∧ RegistersAre s t c.a c.x c.y c.x c.pc 2 ∧ t.cpu.p = c.p)

/-- PHA, PHP, PLA, PLP (42_transfer_stack.md R157 to R160, 40_addressing.md R136, R137). A push: the byte is at the stack
cell `SP` named, `SP` is one less modulo 256, nothing else changes; PHP pushes the live flags with bits 4 and 5 set. A
pull: `SP` is one more modulo 256 and the byte is that of the cell it then names; PLA sets Z and N from it; PLP takes every
flag from it but bit 5, which is 1, and bit 4, which is 0; nothing else changes. The two bits are decision D4. -/
def Obligations.StackInstructionsUseTheStackCell : Prop :=
  (∀ s : State, Memory.wf 0 2048 s.ram →
    let c := s.cpu
    (stackAddr c.sp).toNat = 256 + c.sp.toNat ∧
    (∃ t, exec .pha s = .next t ∧ RamAfterWrite (stackAddr c.sp) c.a s t ∧
      (∀ b, 0x4020 ≤ b → byteAt t b = byteAt s b) ∧ SameOutsideCpuAndRam s t ∧
      t.cpu = { c with sp := c.sp - 1, cyc := 3 }) ∧
    (∃ t v, exec .php s = .next t ∧ RamAfterWrite (stackAddr c.sp) v s t ∧
      (∀ f, getFlag f v = if f = .b ∨ f = .u then true else c.flag f) ∧
      (∀ b, 0x4020 ≤ b → byteAt t b = byteAt s b) ∧ SameOutsideCpuAndRam s t ∧
      t.cpu = { c with sp := c.sp - 1, cyc := 3 })) ∧
  (∀ s : State,
    let c := s.cpu
    let v := byteAt s (stackAddr (c.sp + 1))
    (∃ t, exec .pla s = .next t ∧ RegistersAre s t v c.x c.y (c.sp + 1) c.pc 4 ∧ ZNOf v t.cpu ∧
      SameFlagsBut [.z, .n] c t.cpu) ∧
    (∃ t, exec .plp s = .next t ∧ RegistersAre s t c.a c.x c.y (c.sp + 1) c.pc 4 ∧
      ∀ f, t.cpu.flag f = if f = .b then false else if f = .u then true else getFlag f v))

/-! Logical and arithmetic -/

/-- AND, ORA, EOR in every form (43_logical.md R166, R167, R168): the accumulator takes the bitwise result, Z and N are
set from it, nothing else changes. -/
def Obligations.LogicalOperationsCombineBits : Prop :=
  ∀ (i : Instr) (r : Source) (s : State) (result : Byte), i.operand = .src r →
    let m := (fetchOperand r s).1
    let u := (fetchOperand r s).2
    (i.operation = .and ∧ ∀ k < 8, result.getLsbD k = (s.cpu.a.getLsbD k && m.getLsbD k)) ∨
    (i.operation = .ora ∧ ∀ k < 8, result.getLsbD k = (s.cpu.a.getLsbD k || m.getLsbD k)) ∨
    (i.operation = .eor ∧ ∀ k < 8, result.getLsbD k = (s.cpu.a.getLsbD k != m.getLsbD k)) →
    ∃ t, exec i s = .next t ∧
      RegistersAre u t result s.cpu.x s.cpu.y s.cpu.sp s.cpu.pc (patternCost i.operation i.mode + crossCost i s) ∧
      ZNOf result t.cpu ∧ SameFlagsBut [.z, .n] s.cpu t.cpu ∧ MemoryKept s t

/-- BIT in both forms (43_logical.md R169): Z from the accumulator and the byte, V and N from bits 6 and 7 of the byte,
nothing else changes. -/
def Obligations.BitTestsTheByte : Prop :=
  ∀ (i : Instr) (r : Source) (s : State), i.operation = .bit → i.operand = .src r →
    let m := (fetchOperand r s).1
    let u := (fetchOperand r s).2
    ∃ t, exec i s = .next t ∧
      RegistersAre u t s.cpu.a s.cpu.x s.cpu.y s.cpu.sp s.cpu.pc (patternCost i.operation i.mode) ∧
      (t.cpu.flag .z = true ↔ ∀ k < 8, (s.cpu.a.getLsbD k && m.getLsbD k) = false) ∧
      t.cpu.flag .v = m.getLsbD 6 ∧ t.cpu.flag .n = m.getLsbD 7 ∧
      SameFlagsBut [.z, .v, .n] s.cpu t.cpu ∧ MemoryKept s t

/-- ADC in every form (44_arithmetic.md R176): the binary sum with carry in, "carry = unsigned result > 255; overflow =
operands share a sign but result differs in sign", Z and N from the byte, nothing else changes. -/
def Obligations.AdcAddsWithCarry : Prop :=
  ∀ (i : Instr) (r : Source) (s : State), i.operation = .adc → i.operand = .src r →
    let a := s.cpu.a
    let m := (fetchOperand r s).1
    let u := (fetchOperand r s).2
    let sum := a.toNat + m.toNat + (s.cpu.flag .c).toNat
    ∃ t result, exec i s = .next t ∧
      RegistersAre u t result s.cpu.x s.cpu.y s.cpu.sp s.cpu.pc (patternCost i.operation i.mode + crossCost i s) ∧
      result.toNat = sum % 256 ∧
      t.cpu.flag .c = decide (255 < sum) ∧
      t.cpu.flag .v = decide ((128 ≤ a.toNat ↔ 128 ≤ m.toNat) ∧ ¬(128 ≤ result.toNat ↔ 128 ≤ a.toNat)) ∧
      ZNOf result t.cpu ∧ SameFlagsBut [.c, .z, .v, .n] s.cpu t.cpu ∧ MemoryKept s t

/-- SBC in every form (44_arithmetic.md R178): the binary difference with borrow, carry exactly when no borrow was needed,
overflow exactly when the signed result is outside -128 to 127, Z and N from the byte, nothing else changes. -/
def Obligations.SbcSubtractsWithBorrow : Prop :=
  ∀ (i : Instr) (r : Source) (s : State), i.operation = .sbc → i.operand = .src r →
    let a := s.cpu.a
    let m := (fetchOperand r s).1
    let u := (fetchOperand r s).2
    let borrow := 1 - (s.cpu.flag .c).toNat
    ∃ t result, exec i s = .next t ∧
      RegistersAre u t result s.cpu.x s.cpu.y s.cpu.sp s.cpu.pc (patternCost i.operation i.mode + crossCost i s) ∧
      (result.toNat : Int) = ((a.toNat : Int) - m.toNat - borrow) % 256 ∧
      t.cpu.flag .c = decide (m.toNat + borrow ≤ a.toNat) ∧
      t.cpu.flag .v = decide (a.toInt - m.toInt - borrow < -128 ∨ 127 < a.toInt - m.toInt - borrow) ∧
      ZNOf result t.cpu ∧ SameFlagsBut [.c, .z, .v, .n] s.cpu t.cpu ∧ MemoryKept s t

/-- The decimal flag does not change arithmetic (44_arithmetic.md R177): ADC and SBC with the decimal flag at either value
leave the same state but for that flag. -/
def Obligations.DecimalFlagIsInert : Prop :=
  ∀ (i : Instr) (s : State) (d : Bool), i.operation = .adc ∨ i.operation = .sbc →
    ∃ t, exec i s = .next t ∧
      exec i (s.mapCpu (·.setFlag .d d)) = .next (t.mapCpu (·.setFlag .d d))

/-- CMP, CPX, CPY in every form (44_arithmetic.md R179, R180, R181): carry from the unsigned comparison, Z and N from the
8-bit difference, nothing else changes. -/
def Obligations.ComparesSetFlagsOnly : Prop :=
  ∀ (i : Instr) (r : Source) (s : State) (reg : Byte), i.operand = .src r →
    (i.operation = .cmp ∧ reg = s.cpu.a) ∨ (i.operation = .cpx ∧ reg = s.cpu.x) ∨
      (i.operation = .cpy ∧ reg = s.cpu.y) →
    let m := (fetchOperand r s).1
    let u := (fetchOperand r s).2
    ∃ t, exec i s = .next t ∧
      RegistersAre u t s.cpu.a s.cpu.x s.cpu.y s.cpu.sp s.cpu.pc
        (patternCost i.operation i.mode + crossCost i s) ∧
      t.cpu.flag .c = decide (m.toNat ≤ reg.toNat) ∧ t.cpu.flag .z = decide (reg = m) ∧
      t.cpu.flag .n = decide (128 ≤ (reg.toNat + 256 - m.toNat) % 256) ∧
      SameFlagsBut [.c, .z, .n] s.cpu t.cpu ∧ MemoryKept s t

/-! Increments, decrements, shifts -/

/-- INX, INY, DEX, DEY (45_incdec.md R188 to R191): the register counts modulo 256, Z and N are set from it, nothing else
changes. -/
def Obligations.RegisterCountsWrap : Prop :=
  ∀ (s : State) (v : Byte),
    let c := s.cpu
    (v.toNat = (c.x.toNat + 1) % 256 → ∃ t, exec .inx s = .next t ∧ RegistersAre s t c.a v c.y c.sp c.pc 2 ∧
      ZNOf v t.cpu ∧ SameFlagsBut [.z, .n] c t.cpu) ∧
    (v.toNat = (c.y.toNat + 1) % 256 → ∃ t, exec .iny s = .next t ∧ RegistersAre s t c.a c.x v c.sp c.pc 2 ∧
      ZNOf v t.cpu ∧ SameFlagsBut [.z, .n] c t.cpu) ∧
    (v.toNat = (c.x.toNat + 255) % 256 → ∃ t, exec .dex s = .next t ∧ RegistersAre s t c.a v c.y c.sp c.pc 2 ∧
      ZNOf v t.cpu ∧ SameFlagsBut [.z, .n] c t.cpu) ∧
    (v.toNat = (c.y.toNat + 255) % 256 → ∃ t, exec .dey s = .next t ∧ RegistersAre s t c.a c.x v c.sp c.pc 2 ∧
      ZNOf v t.cpu ∧ SameFlagsBut [.z, .n] c t.cpu)

/-- The memory forms of INC, DEC, ASL, LSR, ROL, ROR whose effective address is not the cartridge's, and the accumulator
forms of the shifts (45_incdec.md R186, R187, 46_shift_rotate.md R196 to R199; one read and one write is decision D13): the
result is written where the byte was read, the shifts leave the bit shifted out in C, Z and N are set from the result, no
other register or flag changes, and outside the CPU only the one read and the one write have had their effect. -/
def Obligations.ModifyInstructionsWriteBack : Prop :=
  (∀ (i : Instr) (m : MemOperand) (s : State) (r : Byte), i.operand = .src (.mem m) →
    let ea := (resolve m s).ea
    let b := (memRead ea s).1
    let u := (memRead ea s).2
    modifyResult i.operation (s.cpu.flag .c) b.toNat = some r.toNat →
    ea ≤ 0x401F →
    ∃ t w, exec i s = .next t ∧ memWrite ea r u = some w ∧ SameDevices w t ∧ t.fatal = s.fatal ∧
      SameRegisters s.cpu t.cpu ∧ ZNOf r t.cpu ∧
      t.cpu.flag .c = modifyCarry i.operation (s.cpu.flag .c) b.toNat ∧ SameFlagsBut [.c, .z, .n] s.cpu t.cpu ∧
      t.cpu.cyc = patternCost i.operation i.mode ∧
      (ea ≤ 0x1FFF → Memory.wf 0 2048 s.ram → RamAfterWrite ea r s t) ∧
      (0x1FFF < ea → t.ram = s.ram) ∧ (∀ b, 0x4020 ≤ b → byteAt t b = byteAt s b)) ∧
  (∀ (i : Instr) (s : State) (r : Byte), i.operand = .src .acc →
    modifyResult i.operation (s.cpu.flag .c) s.cpu.a.toNat = some r.toNat →
    ∃ t, exec i s = .next t ∧ RegistersAre s t r s.cpu.x s.cpu.y s.cpu.sp s.cpu.pc 2 ∧ ZNOf r t.cpu ∧
      t.cpu.flag .c = modifyCarry i.operation (s.cpu.flag .c) s.cpu.a.toNat ∧
      SameFlagsBut [.c, .z, .n] s.cpu t.cpu)

/-! Control flow -/

/-- JMP absolute, JSR, RTS and RTI (47_jump_branch.md R206 in absolute mode, R207, R208, 49_system.md R237): JSR leaves the
address of its last byte on the stack, high byte first (the access order is decision D17); RTS goes one past the address it
pulls; RTI pulls the status, with bit 5 staying 1 and bit 4 staying 0 (decision D4), and then the address it goes to. -/
def Obligations.JumpsCallsAndReturns : Prop :=
  ∀ (s : State) (addr : Addr),
    let c := s.cpu
    (∃ t, exec (.jmpAbs addr) s = .next t ∧ SameOutsideCpu s t ∧ t.cpu = { c with pc := addr, cyc := 3 }) ∧
    (Memory.wf 0 2048 s.ram → ∃ t, exec (.jsr addr) s = .next t ∧ SameOutsideCpuAndRam s t ∧
      t.cpu = { c with pc := addr, sp := c.sp - 2, cyc := 6 } ∧
      (∀ b : Addr, b ≤ 0x1FFF → byteAt t b =
        if b &&& 0x07FF = stackAddr (c.sp - 1) then loByte (c.pc - 1)
        else if b &&& 0x07FF = stackAddr c.sp then hiByte (c.pc - 1) else byteAt s b) ∧
      (∀ b : Addr, 0x4020 ≤ b → byteAt t b = byteAt s b)) ∧
    (∃ t, exec .rts s = .next t ∧ SameOutsideCpu s t ∧
      t.cpu = { c with
        pc := mkAddr (byteAt s (stackAddr (c.sp + 2))) (byteAt s (stackAddr (c.sp + 1))) + 1,
        sp := c.sp + 2, cyc := 6 }) ∧
    (∃ t, exec .rti s = .next t ∧
      RegistersAre s t c.a c.x c.y (c.sp + 3)
        (mkAddr (byteAt s (stackAddr (c.sp + 3))) (byteAt s (stackAddr (c.sp + 2)))) 6 ∧
      ∀ f, t.cpu.flag f =
        if f = .b then false else if f = .u then true else getFlag f (byteAt s (stackAddr (c.sp + 1))))

/-- JMP indirect (40_addressing.md R131, 47_jump_branch.md R206): the low byte of the target comes from the pointer, the
high byte from the next address of the same page; nothing but `pc` and what the two reads do changes. -/
def Obligations.IndirectJumpStaysInThePage : Prop :=
  ∀ (s : State) (ptr : Addr),
    let lo := memRead ptr s
    let hi := memRead (BitVec.ofNat 16 (ptr.toNat / 256 * 256 + (ptr.toNat % 256 + 1) % 256)) lo.2
    ∃ t, exec (.jmpInd ptr) s = .next t ∧ SameOutsideCpu hi.2 t ∧ MemoryKept s t ∧
      t.cpu = { s.cpu with pc := BitVec.ofNat 16 (256 * hi.1.toNat + lo.1.toNat), cyc := 5 }

/-- A subroutine returns to the instruction after its JSR, and an interrupt entered by BRK or by NMI returns by RTI: after
BRK to two bytes past the opcode, after NMI to the interrupted instruction, with the flags the interrupted code had
(47_jump_branch.md R207, R208, 49_system.md R235, R237, 60_exceptions.md R379, R382; the BRK return address is decision
D1, the break bit D4). `pc` is the address of the byte after the JSR or BRK opcode's instruction when its meaning runs
(log entry 1). -/
def Obligations.CallsAndInterruptsReturn : Prop :=
  ∀ (s t u : State), Memory.wf 0 2048 s.ram →
    (∀ addr, exec (.jsr addr) s = .next t → exec .rts t = .next u →
      u.cpu.pc = s.cpu.pc ∧ u.cpu.sp = s.cpu.sp) ∧
    (exec .brk s = .next t → exec .rti t = .next u →
      u.cpu.pc = s.cpu.pc + 1 ∧ u.cpu.sp = s.cpu.sp ∧
      ∀ f, u.cpu.flag f = if f = .b then false else if f = .u then true else s.cpu.flag f) ∧
    (exec .rti (enterNmi s) = .next u →
      u.cpu.pc = s.cpu.pc ∧ u.cpu.sp = s.cpu.sp ∧
      ∀ f, u.cpu.flag f = if f = .b then false else if f = .u then true else s.cpu.flag f)

/-- The eight branches (47_jump_branch.md R209 to R217): `pc` goes to the target exactly when the flag has the value the
branch tests, at the cost of one more cycle, two to another page (the page is that of the next instruction: decision
D11); nothing else changes. -/
def Obligations.BranchesTestTheirFlag : Prop :=
  ∀ (i : Instr) (b1 : Byte) (f : Flag) (value : Bool) (s : State), i.operand = .rel b1 →
    branchTest i.operation = some (f, value) →
    let next := s.cpu.pc
    let target := branchDestination next b1
    ∃ t, exec i s = .next t ∧ SameOutsideCpu s t ∧
      t.cpu =
        if s.cpu.flag f = value then
          { s.cpu with pc := target, cyc := if target.toNat / 256 = next.toNat / 256 then 3 else 4 }
        else { s.cpu with cyc := 2 }

/-- The seven flag instructions (48_flags.md R226 to R232): one flag takes a constant, nothing else changes. -/
def Obligations.FlagInstructionsWriteOneFlag : Prop :=
  ∀ (s : State) (i : Instr) (f : Flag) (value : Bool),
    (i, f, value) ∈ [(Instr.clc, Flag.c, false), (.sec, .c, true), (.cli, .i, false), (.sei, .i, true),
      (.cld, .d, false), (.sed, .d, true), (.clv, .v, false)] →
    ∃ t, exec i s = .next t ∧ RegistersAre s t s.cpu.a s.cpu.x s.cpu.y s.cpu.sp s.cpu.pc 2 ∧
      t.cpu.flag f = value ∧ SameFlagsBut [f] s.cpu t.cpu

/-! Interrupts and system instructions -/

/-- BRK and NMI entry. BRK (49_system.md R235): the return address, one past `pc`, high byte first, and the status with
bits 4 and 5 set are on the stack, I is set, `pc` comes from $FFFE and $FFFF (the return address is decision D1, the break
bit D4). NMI (60_exceptions.md R377): the address of the next instruction, high byte first, and the live status are on the
stack, I is set, `pc` comes from $FFFA and $FFFB, and the parameter NMI_CYCLES is added to `cyc` (I, the cost and its
adding are decision D9). -/
def Obligations.BrkAndNmiEnterTheirVectors : Prop :=
  (∀ s : State, Memory.wf 0 2048 s.ram →
    let c := s.cpu
    ∃ t status, exec .brk s = .next t ∧ SameOutsideCpuAndRam s t ∧
      t.cpu.a = c.a ∧ t.cpu.x = c.x ∧ t.cpu.y = c.y ∧ t.cpu.sp = c.sp - 3 ∧ t.cpu.cyc = 7 ∧
      t.cpu.pc = mkAddr (byteAt s 0xFFFF) (byteAt s 0xFFFE) ∧
      t.cpu.flag .i = true ∧ SameFlagsBut [.i] c t.cpu ∧
      (∀ f, getFlag f status = if f = .b ∨ f = .u then true else c.flag f) ∧
      (∀ b : Addr, b ≤ 0x1FFF → byteAt t b =
        if b &&& 0x07FF = stackAddr (c.sp - 2) then status
        else if b &&& 0x07FF = stackAddr (c.sp - 1) then loByte (c.pc + 1)
        else if b &&& 0x07FF = stackAddr c.sp then hiByte (c.pc + 1) else byteAt s b) ∧
      (∀ b : Addr, 0x4020 ≤ b → byteAt t b = byteAt s b)) ∧
  (∀ s : State, Memory.wf 0 2048 s.ram →
    let c := s.cpu
    let t := enterNmi s
    SameOutsideCpuAndRam s t ∧
      t.cpu.a = c.a ∧ t.cpu.x = c.x ∧ t.cpu.y = c.y ∧ t.cpu.sp = c.sp - 3 ∧ t.cpu.cyc = c.cyc + s.fixed.params.nmiCycles ∧
      t.cpu.pc = mkAddr (byteAt s 0xFFFB) (byteAt s 0xFFFA) ∧
      t.cpu.flag .i = true ∧ SameFlagsBut [.i] c t.cpu ∧
      (∀ b : Addr, b ≤ 0x1FFF → byteAt t b =
        if b &&& 0x07FF = stackAddr (c.sp - 2) then c.p
        else if b &&& 0x07FF = stackAddr (c.sp - 1) then loByte c.pc
        else if b &&& 0x07FF = stackAddr c.sp then hiByte c.pc else byteAt s b) ∧
      (∀ b : Addr, 0x4020 ≤ b → byteAt t b = byteAt s b))

/-- NOP changes nothing but the cycle counter (49_system.md R236), and so does every undefined opcode where `UNDEF_OP` is a
no-op in implied mode, as by default (R238, decision D2), which it loads with that entry's cost, 2 by default.
UndefinedOpcodesRunTheirTableEntry says what another entry does. -/
def Obligations.NopAndUndefinedOpcodesDoNothing : Prop :=
  ∀ s : State,
    (∃ t, exec .nop s = .next t ∧ SameOutsideCpu s t ∧ t.cpu = { s.cpu with cyc := 2 }) ∧
    (s.fixed.params.undefOp.operation = .nop ∨ s.fixed.params.undefOp.operation = .und →
      s.fixed.params.undefOp.mode = .imp →
      ∀ op, ∃ t, exec (.und op) s = .next t ∧ SameOutsideCpu s t ∧
        t.cpu = { s.cpu with cyc := s.fixed.params.undefOp.cycles })

/-- Every instruction that does not raise the fatal condition loads `cyc` with its total cost: the base cost of its kind
and mode, for an undefined opcode that of `UNDEF_OP`, the page-cross cycle of the nine operations that pay it, the extra
cycles of a taken branch (for an undefined opcode those of the entry's operation and mode)
(70_reset_and_hazards.md R421, R422, 47_jump_branch.md R209, 40_addressing.md R139; the numbers are decisions D2, D11,
D12). -/
def Obligations.EveryInstructionLoadsItsCost : Prop :=
  ∀ (i : Instr) (s t : State), s.Running → exec i s = .next t → t.Running →
    (i.operation ≠ .und → t.cpu.cyc = patternCost i.operation i.mode + crossCost i s + branchCost i s) ∧
    (i.operation = .und →
      t.cpu.cyc = s.fixed.params.undefOp.cycles + entryExtra s.fixed.params.undefOp s)
end

