-- ==== Sys2Proof/Laws/Decode.lean ====
section
/-! SUPPORT. Bytes of 16-bit values, and what the decoder answers. -/

namespace Sys2Proof

theorem mkAddr_toNat (hi lo : Byte) : (mkAddr hi lo).toNat = hi.toNat * 256 + lo.toNat := by
  have h := Nat.shiftLeft_add_eq_or_of_lt (b := lo.toNat) (i := 8) lo.isLt hi.toNat
  rw [show (mkAddr hi lo).toNat = (hi ++ lo).toNat from rfl, BitVec.toNat_append, ← h, Nat.shiftLeft_eq]

theorem loByte_toNat (w : Addr) : (loByte w).toNat = w.toNat % 256 := by
  simp [loByte, BitVec.extractLsb'_toNat]

theorem hiByte_toNat (w : Addr) : (hiByte w).toNat = w.toNat / 256 := by
  have := w.isLt
  simp [hiByte, BitVec.extractLsb'_toNat, Nat.shiftRight_eq_div_pow]
  omega

@[simp] theorem mkAddr_hiByte_loByte (w : Addr) : mkAddr (hiByte w) (loByte w) = w := by
  apply BitVec.eq_of_toNat_eq
  rw [mkAddr_toNat, hiByte_toNat, loByte_toNat]
  omega

@[simp] theorem hiByte_mkAddr (hi lo : Byte) : hiByte (mkAddr hi lo) = hi := by
  apply BitVec.eq_of_toNat_eq
  have := lo.isLt
  rw [hiByte_toNat, mkAddr_toNat]
  omega

@[simp] theorem loByte_mkAddr (hi lo : Byte) : loByte (mkAddr hi lo) = lo := by
  apply BitVec.eq_of_toNat_eq
  have := lo.isLt
  rw [loByte_toNat, mkAddr_toNat]
  omega

/-- The decoder on a one-byte instruction. -/
theorem decode_f1 {op : Byte} {i : Instr} (h : opcodeEntry op = .f1 i) (rest : List Byte) :
    decode (op :: rest) = .ok (i, rest) := by
  simp [decode, h]

/-- The decoder on a two-byte instruction. -/
theorem decode_f2 {op : Byte} {mk : Byte → Instr} (h : opcodeEntry op = .f2 mk) (b1 : Byte) (rest : List Byte) :
    decode (op :: b1 :: rest) = .ok (mk b1, rest) := by
  simp [decode, h]

/-- The decoder on a three-byte instruction. -/
theorem decode_f3 {op : Byte} {mk : Addr → Instr} (h : opcodeEntry op = .f3 mk) (b1 b2 : Byte) (rest : List Byte) :
    decode (op :: b1 :: b2 :: rest) = .ok (mk (mkAddr b2 b1), rest) := by
  simp [decode, h]

end Sys2Proof
end

