-- ==== Sys2Proof/Laws/State.lean ====
section
/-! SUPPORT. One lemma per field per update of the CPU and of the state. -/

namespace Sys2Proof.Machine

@[simp] theorem Cpu.setA_a (v : Byte) (c : Cpu) : (c.setA v).a = v := rfl
@[simp] theorem Cpu.setA_x (v : Byte) (c : Cpu) : (c.setA v).x = c.x := rfl
@[simp] theorem Cpu.setA_y (v : Byte) (c : Cpu) : (c.setA v).y = c.y := rfl
@[simp] theorem Cpu.setA_sp (v : Byte) (c : Cpu) : (c.setA v).sp = c.sp := rfl
@[simp] theorem Cpu.setA_p (v : Byte) (c : Cpu) : (c.setA v).p = c.p := rfl
@[simp] theorem Cpu.setA_pc (v : Byte) (c : Cpu) : (c.setA v).pc = c.pc := rfl
@[simp] theorem Cpu.setA_cyc (v : Byte) (c : Cpu) : (c.setA v).cyc = c.cyc := rfl

@[simp] theorem Cpu.setX_a (v : Byte) (c : Cpu) : (c.setX v).a = c.a := rfl
@[simp] theorem Cpu.setX_x (v : Byte) (c : Cpu) : (c.setX v).x = v := rfl
@[simp] theorem Cpu.setX_y (v : Byte) (c : Cpu) : (c.setX v).y = c.y := rfl
@[simp] theorem Cpu.setX_sp (v : Byte) (c : Cpu) : (c.setX v).sp = c.sp := rfl
@[simp] theorem Cpu.setX_p (v : Byte) (c : Cpu) : (c.setX v).p = c.p := rfl
@[simp] theorem Cpu.setX_pc (v : Byte) (c : Cpu) : (c.setX v).pc = c.pc := rfl
@[simp] theorem Cpu.setX_cyc (v : Byte) (c : Cpu) : (c.setX v).cyc = c.cyc := rfl

@[simp] theorem Cpu.setY_a (v : Byte) (c : Cpu) : (c.setY v).a = c.a := rfl
@[simp] theorem Cpu.setY_x (v : Byte) (c : Cpu) : (c.setY v).x = c.x := rfl
@[simp] theorem Cpu.setY_y (v : Byte) (c : Cpu) : (c.setY v).y = v := rfl
@[simp] theorem Cpu.setY_sp (v : Byte) (c : Cpu) : (c.setY v).sp = c.sp := rfl
@[simp] theorem Cpu.setY_p (v : Byte) (c : Cpu) : (c.setY v).p = c.p := rfl
@[simp] theorem Cpu.setY_pc (v : Byte) (c : Cpu) : (c.setY v).pc = c.pc := rfl
@[simp] theorem Cpu.setY_cyc (v : Byte) (c : Cpu) : (c.setY v).cyc = c.cyc := rfl

@[simp] theorem Cpu.setSp_a (v : Byte) (c : Cpu) : (c.setSp v).a = c.a := rfl
@[simp] theorem Cpu.setSp_x (v : Byte) (c : Cpu) : (c.setSp v).x = c.x := rfl
@[simp] theorem Cpu.setSp_y (v : Byte) (c : Cpu) : (c.setSp v).y = c.y := rfl
@[simp] theorem Cpu.setSp_sp (v : Byte) (c : Cpu) : (c.setSp v).sp = v := rfl
@[simp] theorem Cpu.setSp_p (v : Byte) (c : Cpu) : (c.setSp v).p = c.p := rfl
@[simp] theorem Cpu.setSp_pc (v : Byte) (c : Cpu) : (c.setSp v).pc = c.pc := rfl
@[simp] theorem Cpu.setSp_cyc (v : Byte) (c : Cpu) : (c.setSp v).cyc = c.cyc := rfl

@[simp] theorem Cpu.setP_a (v : Byte) (c : Cpu) : (c.setP v).a = c.a := rfl
@[simp] theorem Cpu.setP_x (v : Byte) (c : Cpu) : (c.setP v).x = c.x := rfl
@[simp] theorem Cpu.setP_y (v : Byte) (c : Cpu) : (c.setP v).y = c.y := rfl
@[simp] theorem Cpu.setP_sp (v : Byte) (c : Cpu) : (c.setP v).sp = c.sp := rfl
@[simp] theorem Cpu.setP_p (v : Byte) (c : Cpu) : (c.setP v).p = v := rfl
@[simp] theorem Cpu.setP_pc (v : Byte) (c : Cpu) : (c.setP v).pc = c.pc := rfl
@[simp] theorem Cpu.setP_cyc (v : Byte) (c : Cpu) : (c.setP v).cyc = c.cyc := rfl

@[simp] theorem Cpu.setPc_a (v : Addr) (c : Cpu) : (c.setPc v).a = c.a := rfl
@[simp] theorem Cpu.setPc_x (v : Addr) (c : Cpu) : (c.setPc v).x = c.x := rfl
@[simp] theorem Cpu.setPc_y (v : Addr) (c : Cpu) : (c.setPc v).y = c.y := rfl
@[simp] theorem Cpu.setPc_sp (v : Addr) (c : Cpu) : (c.setPc v).sp = c.sp := rfl
@[simp] theorem Cpu.setPc_p (v : Addr) (c : Cpu) : (c.setPc v).p = c.p := rfl
@[simp] theorem Cpu.setPc_pc (v : Addr) (c : Cpu) : (c.setPc v).pc = v := rfl
@[simp] theorem Cpu.setPc_cyc (v : Addr) (c : Cpu) : (c.setPc v).cyc = c.cyc := rfl

@[simp] theorem Cpu.setCyc_a (v : Nat) (c : Cpu) : (c.setCyc v).a = c.a := rfl
@[simp] theorem Cpu.setCyc_x (v : Nat) (c : Cpu) : (c.setCyc v).x = c.x := rfl
@[simp] theorem Cpu.setCyc_y (v : Nat) (c : Cpu) : (c.setCyc v).y = c.y := rfl
@[simp] theorem Cpu.setCyc_sp (v : Nat) (c : Cpu) : (c.setCyc v).sp = c.sp := rfl
@[simp] theorem Cpu.setCyc_p (v : Nat) (c : Cpu) : (c.setCyc v).p = c.p := rfl
@[simp] theorem Cpu.setCyc_pc (v : Nat) (c : Cpu) : (c.setCyc v).pc = c.pc := rfl
@[simp] theorem Cpu.setCyc_cyc (v : Nat) (c : Cpu) : (c.setCyc v).cyc = v := rfl

@[simp] theorem State.setCpu_cpu (v : Cpu) (s : State) : (s.setCpu v).cpu = v := rfl
@[simp] theorem State.setCpu_fatal (v : Cpu) (s : State) : (s.setCpu v).fatal = s.fatal := rfl
@[simp] theorem State.setCpu_ram (v : Cpu) (s : State) : (s.setCpu v).ram = s.ram := rfl
@[simp] theorem State.setCpu_ppu (v : Cpu) (s : State) : (s.setCpu v).ppu = s.ppu := rfl
@[simp] theorem State.setCpu_dma (v : Cpu) (s : State) : (s.setCpu v).dma = s.dma := rfl
@[simp] theorem State.setCpu_g (v : Cpu) (s : State) : (s.setCpu v).g = s.g := rfl
@[simp] theorem State.setCpu_fixed (v : Cpu) (s : State) : (s.setCpu v).fixed = s.fixed := rfl
@[simp] theorem State.setCpu_trace (v : Cpu) (s : State) : (s.setCpu v).trace = s.trace := rfl
@[simp] theorem State.setCpu_joypadReads (v : Cpu) (s : State) : (s.setCpu v).joypadReads = s.joypadReads := rfl

@[simp] theorem State.setFatal_cpu (v : Option FatalWrite) (s : State) : (s.setFatal v).cpu = s.cpu := rfl
@[simp] theorem State.setFatal_fatal (v : Option FatalWrite) (s : State) : (s.setFatal v).fatal = v := rfl
@[simp] theorem State.setFatal_ram (v : Option FatalWrite) (s : State) : (s.setFatal v).ram = s.ram := rfl
@[simp] theorem State.setFatal_ppu (v : Option FatalWrite) (s : State) : (s.setFatal v).ppu = s.ppu := rfl
@[simp] theorem State.setFatal_dma (v : Option FatalWrite) (s : State) : (s.setFatal v).dma = s.dma := rfl
@[simp] theorem State.setFatal_g (v : Option FatalWrite) (s : State) : (s.setFatal v).g = s.g := rfl
@[simp] theorem State.setFatal_fixed (v : Option FatalWrite) (s : State) : (s.setFatal v).fixed = s.fixed := rfl
@[simp] theorem State.setFatal_trace (v : Option FatalWrite) (s : State) : (s.setFatal v).trace = s.trace := rfl
@[simp] theorem State.setFatal_joypadReads (v : Option FatalWrite) (s : State) : (s.setFatal v).joypadReads = s.joypadReads := rfl

@[simp] theorem State.setRam_cpu (v : Memory) (s : State) : (s.setRam v).cpu = s.cpu := rfl
@[simp] theorem State.setRam_fatal (v : Memory) (s : State) : (s.setRam v).fatal = s.fatal := rfl
@[simp] theorem State.setRam_ram (v : Memory) (s : State) : (s.setRam v).ram = v := rfl
@[simp] theorem State.setRam_ppu (v : Memory) (s : State) : (s.setRam v).ppu = s.ppu := rfl
@[simp] theorem State.setRam_dma (v : Memory) (s : State) : (s.setRam v).dma = s.dma := rfl
@[simp] theorem State.setRam_g (v : Memory) (s : State) : (s.setRam v).g = s.g := rfl
@[simp] theorem State.setRam_fixed (v : Memory) (s : State) : (s.setRam v).fixed = s.fixed := rfl
@[simp] theorem State.setRam_trace (v : Memory) (s : State) : (s.setRam v).trace = s.trace := rfl
@[simp] theorem State.setRam_joypadReads (v : Memory) (s : State) : (s.setRam v).joypadReads = s.joypadReads := rfl

@[simp] theorem State.setPpu_cpu (v : Ppu) (s : State) : (s.setPpu v).cpu = s.cpu := rfl
@[simp] theorem State.setPpu_fatal (v : Ppu) (s : State) : (s.setPpu v).fatal = s.fatal := rfl
@[simp] theorem State.setPpu_ram (v : Ppu) (s : State) : (s.setPpu v).ram = s.ram := rfl
@[simp] theorem State.setPpu_ppu (v : Ppu) (s : State) : (s.setPpu v).ppu = v := rfl
@[simp] theorem State.setPpu_dma (v : Ppu) (s : State) : (s.setPpu v).dma = s.dma := rfl
@[simp] theorem State.setPpu_g (v : Ppu) (s : State) : (s.setPpu v).g = s.g := rfl
@[simp] theorem State.setPpu_fixed (v : Ppu) (s : State) : (s.setPpu v).fixed = s.fixed := rfl
@[simp] theorem State.setPpu_trace (v : Ppu) (s : State) : (s.setPpu v).trace = s.trace := rfl
@[simp] theorem State.setPpu_joypadReads (v : Ppu) (s : State) : (s.setPpu v).joypadReads = s.joypadReads := rfl

@[simp] theorem State.setDma_cpu (v : Dma) (s : State) : (s.setDma v).cpu = s.cpu := rfl
@[simp] theorem State.setDma_fatal (v : Dma) (s : State) : (s.setDma v).fatal = s.fatal := rfl
@[simp] theorem State.setDma_ram (v : Dma) (s : State) : (s.setDma v).ram = s.ram := rfl
@[simp] theorem State.setDma_ppu (v : Dma) (s : State) : (s.setDma v).ppu = s.ppu := rfl
@[simp] theorem State.setDma_dma (v : Dma) (s : State) : (s.setDma v).dma = v := rfl
@[simp] theorem State.setDma_g (v : Dma) (s : State) : (s.setDma v).g = s.g := rfl
@[simp] theorem State.setDma_fixed (v : Dma) (s : State) : (s.setDma v).fixed = s.fixed := rfl
@[simp] theorem State.setDma_trace (v : Dma) (s : State) : (s.setDma v).trace = s.trace := rfl
@[simp] theorem State.setDma_joypadReads (v : Dma) (s : State) : (s.setDma v).joypadReads = s.joypadReads := rfl

@[simp] theorem State.setG_cpu (v : Nat) (s : State) : (s.setG v).cpu = s.cpu := rfl
@[simp] theorem State.setG_fatal (v : Nat) (s : State) : (s.setG v).fatal = s.fatal := rfl
@[simp] theorem State.setG_ram (v : Nat) (s : State) : (s.setG v).ram = s.ram := rfl
@[simp] theorem State.setG_ppu (v : Nat) (s : State) : (s.setG v).ppu = s.ppu := rfl
@[simp] theorem State.setG_dma (v : Nat) (s : State) : (s.setG v).dma = s.dma := rfl
@[simp] theorem State.setG_g (v : Nat) (s : State) : (s.setG v).g = v := rfl
@[simp] theorem State.setG_fixed (v : Nat) (s : State) : (s.setG v).fixed = s.fixed := rfl
@[simp] theorem State.setG_trace (v : Nat) (s : State) : (s.setG v).trace = s.trace := rfl
@[simp] theorem State.setG_joypadReads (v : Nat) (s : State) : (s.setG v).joypadReads = s.joypadReads := rfl

@[simp] theorem State.setFixed_cpu (v : Fixed) (s : State) : (s.setFixed v).cpu = s.cpu := rfl
@[simp] theorem State.setFixed_fatal (v : Fixed) (s : State) : (s.setFixed v).fatal = s.fatal := rfl
@[simp] theorem State.setFixed_ram (v : Fixed) (s : State) : (s.setFixed v).ram = s.ram := rfl
@[simp] theorem State.setFixed_ppu (v : Fixed) (s : State) : (s.setFixed v).ppu = s.ppu := rfl
@[simp] theorem State.setFixed_dma (v : Fixed) (s : State) : (s.setFixed v).dma = s.dma := rfl
@[simp] theorem State.setFixed_g (v : Fixed) (s : State) : (s.setFixed v).g = s.g := rfl
@[simp] theorem State.setFixed_fixed (v : Fixed) (s : State) : (s.setFixed v).fixed = v := rfl
@[simp] theorem State.setFixed_trace (v : Fixed) (s : State) : (s.setFixed v).trace = s.trace := rfl
@[simp] theorem State.setFixed_joypadReads (v : Fixed) (s : State) : (s.setFixed v).joypadReads = s.joypadReads := rfl

@[simp] theorem State.emit_cpu (e : Event) (s : State) : (s.emit e).cpu = s.cpu := rfl
@[simp] theorem State.emit_fatal (e : Event) (s : State) : (s.emit e).fatal = s.fatal := rfl
@[simp] theorem State.emit_ram (e : Event) (s : State) : (s.emit e).ram = s.ram := rfl
@[simp] theorem State.emit_ppu (e : Event) (s : State) : (s.emit e).ppu = s.ppu := rfl
@[simp] theorem State.emit_dma (e : Event) (s : State) : (s.emit e).dma = s.dma := rfl
@[simp] theorem State.emit_g (e : Event) (s : State) : (s.emit e).g = s.g := rfl
@[simp] theorem State.emit_fixed (e : Event) (s : State) : (s.emit e).fixed = s.fixed := rfl
@[simp] theorem State.emit_trace (e : Event) (s : State) : (s.emit e).trace = e :: s.trace := rfl
@[simp] theorem State.emit_joypadReads (e : Event) (s : State) : (s.emit e).joypadReads = s.joypadReads := rfl

@[simp] theorem State.joypadConsumed_cpu (s : State) : s.joypadConsumed.cpu = s.cpu := rfl
@[simp] theorem State.joypadConsumed_fatal (s : State) : s.joypadConsumed.fatal = s.fatal := rfl
@[simp] theorem State.joypadConsumed_ram (s : State) : s.joypadConsumed.ram = s.ram := rfl
@[simp] theorem State.joypadConsumed_ppu (s : State) : s.joypadConsumed.ppu = s.ppu := rfl
@[simp] theorem State.joypadConsumed_dma (s : State) : s.joypadConsumed.dma = s.dma := rfl
@[simp] theorem State.joypadConsumed_g (s : State) : s.joypadConsumed.g = s.g := rfl
@[simp] theorem State.joypadConsumed_fixed (s : State) : s.joypadConsumed.fixed = s.fixed := rfl
@[simp] theorem State.joypadConsumed_trace (s : State) : s.joypadConsumed.trace = s.trace := rfl
@[simp] theorem State.joypadConsumed_joypadReads (s : State) : s.joypadConsumed.joypadReads = s.joypadReads + 1 := rfl

end Sys2Proof.Machine
end

