-- ==== Sys2Proof/Laws/Flags.lean ====
section
/-! SUPPORT. What writing a flag does to every flag, and the flags of the status bytes that are pushed and pulled. -/

namespace Sys2Proof.Machine

/-- A written flag holds the value, every other flag is unchanged. -/
theorem getFlag_setFlag (g f : Flag) (b : Bool) (p : Byte) :
    getFlag g (setFlag f b p) = if g = f then b else getFlag g p := by
  cases b <;> cases f <;> cases g <;>
    simp [getFlag, setFlag, Flag.bit, Flag.byte]

theorem Cpu.flag_setFlag (g f : Flag) (b : Bool) (c : Cpu) :
    (c.setFlag f b).flag g = if g = f then b else c.flag g := getFlag_setFlag g f b c.p

theorem Cpu.flag_setZN (g : Flag) (v : Byte) (c : Cpu) :
    (c.setZN v).flag g = if g = .n then v.getLsbD 7 else if g = .z then decide (v = 0) else c.flag g := by
  simp only [Cpu.setZN, Cpu.flag_setFlag]

@[simp] theorem Cpu.setA_flag (v : Byte) (c : Cpu) (f : Flag) : (c.setA v).flag f = c.flag f := rfl
@[simp] theorem Cpu.setX_flag (v : Byte) (c : Cpu) (f : Flag) : (c.setX v).flag f = c.flag f := rfl
@[simp] theorem Cpu.setY_flag (v : Byte) (c : Cpu) (f : Flag) : (c.setY v).flag f = c.flag f := rfl
@[simp] theorem Cpu.setSp_flag (v : Byte) (c : Cpu) (f : Flag) : (c.setSp v).flag f = c.flag f := rfl
@[simp] theorem Cpu.setPc_flag (v : Addr) (c : Cpu) (f : Flag) : (c.setPc v).flag f = c.flag f := rfl
@[simp] theorem Cpu.setCyc_flag (v : Nat) (c : Cpu) (f : Flag) : (c.setCyc v).flag f = c.flag f := rfl
@[simp] theorem Cpu.setP_flag (v : Byte) (c : Cpu) (f : Flag) : (c.setP v).flag f = getFlag f v := rfl

@[simp] theorem Cpu.setFlag_a (f : Flag) (b : Bool) (c : Cpu) : (c.setFlag f b).a = c.a := rfl
@[simp] theorem Cpu.setFlag_x (f : Flag) (b : Bool) (c : Cpu) : (c.setFlag f b).x = c.x := rfl
@[simp] theorem Cpu.setFlag_y (f : Flag) (b : Bool) (c : Cpu) : (c.setFlag f b).y = c.y := rfl
@[simp] theorem Cpu.setFlag_sp (f : Flag) (b : Bool) (c : Cpu) : (c.setFlag f b).sp = c.sp := rfl
@[simp] theorem Cpu.setFlag_pc (f : Flag) (b : Bool) (c : Cpu) : (c.setFlag f b).pc = c.pc := rfl
@[simp] theorem Cpu.setFlag_cyc (f : Flag) (b : Bool) (c : Cpu) : (c.setFlag f b).cyc = c.cyc := rfl

@[simp] theorem Cpu.setZN_a (v : Byte) (c : Cpu) : (c.setZN v).a = c.a := rfl
@[simp] theorem Cpu.setZN_x (v : Byte) (c : Cpu) : (c.setZN v).x = c.x := rfl
@[simp] theorem Cpu.setZN_y (v : Byte) (c : Cpu) : (c.setZN v).y = c.y := rfl
@[simp] theorem Cpu.setZN_sp (v : Byte) (c : Cpu) : (c.setZN v).sp = c.sp := rfl
@[simp] theorem Cpu.setZN_pc (v : Byte) (c : Cpu) : (c.setZN v).pc = c.pc := rfl
@[simp] theorem Cpu.setZN_cyc (v : Byte) (c : Cpu) : (c.setZN v).cyc = c.cyc := rfl

/-- PHP and BRK push the live flags with bits 4 and 5 set. -/
theorem getFlag_pushedStatus (f : Flag) (p : Byte) :
    getFlag f (pushedStatus p) = if f = .b ∨ f = .u then true else getFlag f p := by
  cases f <;> simp [getFlag, pushedStatus, Flag.bit]

/-- PLP and RTI take every flag of the pulled byte but bits 4 and 5. -/
theorem getFlag_pulledStatus (f : Flag) (b : Byte) :
    getFlag f (pulledStatus b) = if f = .b then false else if f = .u then true else getFlag f b := by
  cases f <;> simp [getFlag, pulledStatus, Flag.bit]

/-- Bit 7 of a byte says that it is 128 or more. -/
theorem getLsbD_seven (v : Byte) : v.getLsbD 7 = decide (128 ≤ v.toNat) := by
  have := v.isLt
  rw [BitVec.getLsbD, Nat.testBit_eq_decide_div_mod_eq]
  congr 1
  simp only [eq_iff_iff]
  omega

end Sys2Proof.Machine
end

