-- ==== Sys2Proof/Laws/Memory.lean ====
section
/-! SUPPORT. The laws of a memory: read after write, and every write keeps the canonical form. -/

namespace Sys2Proof.Machine

theorem Memory.canonicalFrom_mono {lo lo' hi : Nat} (h : lo' ≤ lo) {m : Memory}
    (hm : Memory.canonicalFrom lo hi m = true) : Memory.canonicalFrom lo' hi m = true := by
  cases m with
  | nil => rfl
  | cons kb rest =>
    obtain ⟨k, b⟩ := kb
    simp only [Memory.canonicalFrom, Bool.and_eq_true, decide_eq_true_eq] at hm ⊢
    exact ⟨⟨⟨by omega, hm.1.1.2⟩, hm.1.2⟩, hm.2⟩

/-- An address below every entry is unlisted. -/
theorem Memory.read_below {lo hi a : Nat} {m : Memory} (hm : Memory.canonicalFrom lo hi m = true) (h : a < lo) :
    Memory.read m a = Memory.unlisted := by
  induction m generalizing lo with
  | nil => rfl
  | cons kb rest ih =>
    obtain ⟨k, b⟩ := kb
    simp only [Memory.canonicalFrom, Bool.and_eq_true, decide_eq_true_eq] at hm
    rw [Memory.read, if_neg (by omega)]
    exact ih hm.2 (by omega)

theorem Memory.read_consCell (a c : Nat) (v : Byte) (m : Memory) (h : Memory.read m a = Memory.unlisted) :
    Memory.read (Memory.consCell a v m) c = if c = a then v else Memory.read m c := by
  unfold Memory.consCell
  by_cases hv : v = Memory.unlisted
  · rw [if_pos hv]
    by_cases hc : c = a
    · rw [if_pos hc, hc, h, hv]
    · rw [if_neg hc]
  · rw [if_neg hv, Memory.read]

/-- What a canonical memory reads as after a write. -/
theorem Memory.read_write {lo hi : Nat} {m : Memory} (hm : Memory.canonicalFrom lo hi m = true) (a c : Nat)
    (v : Byte) : Memory.read (Memory.write m a v) c = if c = a then v else Memory.read m c := by
  induction m generalizing lo with
  | nil => exact Memory.read_consCell a c v [] rfl
  | cons kb rest ih =>
    obtain ⟨k, b⟩ := kb
    simp only [Memory.canonicalFrom, Bool.and_eq_true, decide_eq_true_eq] at hm
    rw [Memory.write]
    split
    · rw [Memory.read, ih hm.2, Memory.read]
      by_cases hc : c = k
      · rw [if_pos hc, if_pos hc, if_neg (by omega)]
      · rw [if_neg hc, if_neg hc]
    · split
      · rename_i hk
        rw [Memory.read_consCell a c v rest (by rw [← hk]; exact Memory.read_below hm.2 (by omega)), Memory.read]
        by_cases hc : c = a
        · rw [if_pos hc, if_pos hc]
        · rw [if_neg hc, if_neg hc, if_neg (by omega)]
      · apply Memory.read_consCell
        rw [Memory.read, if_neg (by omega)]
        exact Memory.read_below hm.2 (by omega)

/-- Reading back what was written. -/
theorem Memory.read_write_same {lo hi : Nat} {m : Memory} (hm : Memory.canonicalFrom lo hi m = true) (a : Nat)
    (v : Byte) : Memory.read (Memory.write m a v) a = v := by
  rw [Memory.read_write hm, if_pos rfl]

/-- A write leaves every other address alone. -/
theorem Memory.read_write_other {lo hi : Nat} {m : Memory} (hm : Memory.canonicalFrom lo hi m = true) {a c : Nat}
    (h : c ≠ a) (v : Byte) : Memory.read (Memory.write m a v) c = Memory.read m c := by
  rw [Memory.read_write hm, if_neg h]

theorem Memory.canonicalFrom_consCell {lo hi a : Nat} {v : Byte} {m : Memory} (hl : lo ≤ a) (hh : a < hi)
    (hm : Memory.canonicalFrom (a + 1) hi m = true) : Memory.canonicalFrom lo hi (Memory.consCell a v m) = true := by
  unfold Memory.consCell
  split
  · exact Memory.canonicalFrom_mono (by omega) hm
  · rename_i hv
    simpa [Memory.canonicalFrom, hl, hh, hm] using hv

/-- A write inside the range keeps the canonical form. -/
theorem Memory.wf_write {lo hi a : Nat} {m : Memory} (hl : lo ≤ a) (hh : a < hi)
    (hm : Memory.canonicalFrom lo hi m = true) (v : Byte) : Memory.canonicalFrom lo hi (Memory.write m a v) = true := by
  induction m generalizing lo with
  | nil => exact Memory.canonicalFrom_consCell hl hh rfl
  | cons kb rest ih =>
    obtain ⟨k, b⟩ := kb
    have hm' := hm
    simp only [Memory.canonicalFrom, Bool.and_eq_true, decide_eq_true_eq] at hm
    rw [Memory.write]
    split
    · simp only [Memory.canonicalFrom, Bool.and_eq_true, decide_eq_true_eq]
      exact ⟨hm.1, ih (by omega) hm.2⟩
    · split
      · rename_i hk
        exact Memory.canonicalFrom_consCell hl hh (hk ▸ hm.2)
      · refine Memory.canonicalFrom_consCell hl hh ?_
        simp only [Memory.canonicalFrom, Bool.and_eq_true, decide_eq_true_eq]
        exact ⟨⟨⟨by omega, hm.1.1.2⟩, hm.1.2⟩, hm.2⟩

/-- Equal contents are equal memories. -/
theorem Memory.ext_of_canonical {lo hi : Nat} {m n : Memory} (hm : Memory.canonicalFrom lo hi m = true)
    (hn : Memory.canonicalFrom lo hi n = true) (h : ∀ a, Memory.read m a = Memory.read n a) : m = n := by
  induction m generalizing lo n with
  | nil =>
    cases n with
    | nil => rfl
    | cons kb rest =>
      obtain ⟨k, b⟩ := kb
      simp only [Memory.canonicalFrom, Bool.and_eq_true, decide_eq_true_eq] at hn
      have := h k
      simp [Memory.read] at this
      exact absurd this.symm hn.1.2
  | cons kb rest ih =>
    obtain ⟨k, b⟩ := kb
    have hm' := hm
    simp only [Memory.canonicalFrom, Bool.and_eq_true, decide_eq_true_eq] at hm
    cases n with
    | nil =>
      have := h k
      simp [Memory.read] at this
      exact absurd this hm.1.2
    | cons kb' rest' =>
      obtain ⟨k', b'⟩ := kb'
      have hn' := hn
      simp only [Memory.canonicalFrom, Bool.and_eq_true, decide_eq_true_eq] at hn
      have hk : k = k' := by
        rcases Nat.lt_trichotomy k k' with hlt | heq | hgt
        · have := h k
          rw [Memory.read, if_pos rfl, Memory.read, if_neg (by omega), Memory.read_below hn.2 (by omega)] at this
          exact absurd this hm.1.2
        · exact heq
        · have := h k'
          rw [Memory.read, if_neg (by omega), Memory.read_below hm.2 (by omega), Memory.read, if_pos rfl] at this
          exact absurd this.symm hn.1.2
      subst hk
      have hb : b = b' := by simpa [Memory.read] using h k
      subst hb
      have : rest = rest' := ih hm.2 hn.2 fun a => by
        by_cases ha : a = k
        · rw [ha, Memory.read_below hm.2 (by omega), Memory.read_below hn.2 (by omega)]
        · simpa [Memory.read, ha] using h a
      rw [this]

end Sys2Proof.Machine
end

