-- ==== Sys2Proof/Laws/Ops.lean ====
section
/-! SUPPORT. What the shared operations can do: the bus decode, reads, writes, the stack, interrupt entry. -/

namespace Sys2Proof.Machine

/-! The bus decode -/

theorem ramIndex_lt (a : Addr) : ramIndex a < 2048 := by
  unfold ramIndex
  rw [BitVec.toNat_and]
  exact Nat.lt_of_le_of_lt Nat.and_le_right (by decide)

/-- An address in $0000 to $1FFF reaches its RAM cell (20_memory.md R63). -/
theorem cpuTarget_ram {a : Addr} (h : a ≤ 0x1FFF) : cpuTarget a = .ram (ramIndex a) := if_pos h

/-- An address in $2000 to $3FFF reaches a PPU register (20_memory.md R64). -/
theorem cpuTarget_ppu {a : Addr} (h : 0x2000 ≤ a) (h' : a ≤ 0x3FFF) :
    cpuTarget a = .ppuRegister ((a &&& 7).setWidth 3) := by
  unfold cpuTarget
  rw [if_neg (by bv_omega), if_pos h']

/-- An address from $4020 on is the cartridge's (20_memory.md R66). -/
theorem cpuTarget_cartridge {a : Addr} (h : 0x4020 ≤ a) : cpuTarget a = .cartridge := by
  unfold cpuTarget
  rw [if_neg (by bv_omega), if_neg (by bv_omega), if_neg (by bv_omega), if_neg (by bv_omega), if_neg (by bv_omega),
    if_neg (by bv_omega), if_neg (by bv_omega)]

/-- Only the cartridge's addresses reach it (20_memory.md R66). -/
theorem cpuTarget_eq_cartridge_iff (a : Addr) : cpuTarget a = .cartridge ↔ 0x4020 ≤ a := by
  refine ⟨fun h => ?_, cpuTarget_cartridge⟩
  unfold cpuTarget at h
  split at h
  · exact absurd h (by simp)
  split at h
  · exact absurd h (by simp)
  split at h
  · exact absurd h (by simp)
  split at h
  · exact absurd h (by simp)
  split at h
  · exact absurd h (by simp)
  split at h
  · exact absurd h (by simp)
  split at h
  · exact absurd h (by simp)
  bv_omega

/-- Only the addresses $0000 to $1FFF reach RAM (20_memory.md R63). -/
theorem cpuTarget_eq_ram {a : Addr} {i : Nat} (h : cpuTarget a = .ram i) : a ≤ 0x1FFF ∧ i = ramIndex a := by
  unfold cpuTarget at h
  split at h
  · rename_i h1
    injection h with h
    exact ⟨h1, h.symm⟩
  · repeat (first | (split at h) | (exact absurd h (by simp)))

/-! Reads -/

/-- A read of RAM returns its cell and changes nothing (20_memory.md R63). -/
theorem memRead_ram {a : Addr} (h : a ≤ 0x1FFF) (s : State) : memRead a s = (Memory.read s.ram (ramIndex a), s) := by
  simp [memRead, cpuTarget_ram h]

/-- A read of the cartridge returns its byte and changes nothing (20_memory.md R66). -/
theorem memRead_cartridge {a : Addr} (h : 0x4020 ≤ a) (s : State) : memRead a s = (readProgram s a, s) := by
  simp [memRead, cpuTarget_cartridge h]

/-- A read touches nothing but the PPU's registers and the joypad oracle's index. -/
theorem memRead_frame (a : Addr) (s : State) :
    (memRead a s).2.cpu = s.cpu ∧ (memRead a s).2.fatal = s.fatal ∧ (memRead a s).2.ram = s.ram ∧
    (memRead a s).2.dma = s.dma ∧ (memRead a s).2.g = s.g ∧ (memRead a s).2.fixed = s.fixed ∧
    (memRead a s).2.trace = s.trace := by
  unfold memRead
  split <;> simp [joypadRead]

@[simp] theorem memRead_cpu (a : Addr) (s : State) : (memRead a s).2.cpu = s.cpu := (memRead_frame a s).1
@[simp] theorem memRead_fatal (a : Addr) (s : State) : (memRead a s).2.fatal = s.fatal := (memRead_frame a s).2.1
@[simp] theorem memRead_ramKept (a : Addr) (s : State) : (memRead a s).2.ram = s.ram := (memRead_frame a s).2.2.1
@[simp] theorem memRead_dma (a : Addr) (s : State) : (memRead a s).2.dma = s.dma := (memRead_frame a s).2.2.2.1
@[simp] theorem memRead_g (a : Addr) (s : State) : (memRead a s).2.g = s.g := (memRead_frame a s).2.2.2.2.1
@[simp] theorem memRead_fixed (a : Addr) (s : State) : (memRead a s).2.fixed = s.fixed :=
  (memRead_frame a s).2.2.2.2.2.1
@[simp] theorem memRead_trace (a : Addr) (s : State) : (memRead a s).2.trace = s.trace :=
  (memRead_frame a s).2.2.2.2.2.2

/-- What a bus read answers and what it does to the PPU and the joypads' index depends on RAM, the PPU, the cartridge and
that index alone. -/
theorem memRead_congr {s t : State} (hr : t.ram = s.ram) (hp : t.ppu = s.ppu) (hf : t.fixed = s.fixed)
    (hj : t.joypadReads = s.joypadReads) (a : Addr) :
    (memRead a t).1 = (memRead a s).1 ∧ (memRead a t).2.ppu = (memRead a s).2.ppu ∧
    (memRead a t).2.joypadReads = (memRead a s).2.joypadReads := by
  cases s
  cases t
  dsimp only at hr hp hf hj
  subst hr hp hf hj
  unfold memRead
  cases cpuTarget a <;> exact ⟨rfl, rfl, rfl⟩

/-- A bus read and a change of the CPU commute. -/
theorem memRead_setCpu (a : Addr) (c : Cpu) (s : State) :
    memRead a (s.setCpu c) = ((memRead a s).1, (memRead a s).2.setCpu c) := by
  unfold memRead
  rw [State.setCpu_ram]
  cases cpuTarget a <;> rfl

/-- `Read16` of a vector: both bytes are the cartridge's and nothing changes (20_memory.md R68). -/
theorem read16_cartridge {a : Addr} (h : 0x4020 ≤ a) (h' : 0x4020 ≤ a + 1) (s : State) :
    read16 a s = (mkAddr (readProgram s (a + 1)) (readProgram s a), s) := by
  simp only [read16, memRead_cartridge h, memRead_cartridge h']

/-! Writes -/

/-- A write raises the fatal condition exactly from $4020 on (20_memory.md R67). -/
theorem memWrite_eq_none_iff (a : Addr) (v : Byte) (s : State) : memWrite a v s = none ↔ 0x4020 ≤ a := by
  rw [← cpuTarget_eq_cartridge_iff]
  unfold memWrite
  split <;> simp_all

/-- A write of RAM. -/
theorem memWrite_ram {a : Addr} (h : a ≤ 0x1FFF) (v : Byte) (s : State) :
    memWrite a v s = some (s.setRam (Memory.write s.ram (ramIndex a) v)) := by
  simp [memWrite, cpuTarget_ram h]

/-- A write leaves the CPU, the fault bit, the clock, the cartridge and the joypad index alone. -/
theorem memWrite_frame {a : Addr} {v : Byte} {s t : State} (h : memWrite a v s = some t) :
    t.cpu = s.cpu ∧ t.fatal = s.fatal ∧ t.g = s.g ∧ t.fixed = s.fixed ∧ t.joypadReads = s.joypadReads := by
  unfold memWrite at h
  split at h <;> simp_all <;> subst h <;> simp [dmaStart]

/-- Where the write raises no fatal condition, the rest of the instruction runs on the written state. -/
theorem writeThen_some {a : Addr} {v : Byte} {s t : State} (h : memWrite a v s = some t) (rest : State → State) :
    writeThen a v s rest = .next (rest t) := by
  simp [writeThen, h]

/-- Where the write raises the fatal condition, the rest of the instruction is not performed
(60_exceptions.md R385). -/
theorem writeThen_fatal {a : Addr} (h : 0x4020 ≤ a) (v : Byte) (s : State) (rest : State → State) :
    writeThen a v s rest = .next (raiseFatal a v s) := by
  simp [writeThen, (memWrite_eq_none_iff a v s).2 h]

/-- A write always leaves a next state: the written one, or the fatal one. -/
theorem writeThen_next (a : Addr) (v : Byte) (s : State) (rest : State → State) :
    ∃ t, writeThen a v s rest = .next t := by
  unfold writeThen
  split <;> exact ⟨_, rfl⟩

/-! The stack -/

/-- The stack cells are RAM cells of page 1 (10_state.md R22). -/
theorem stackAddr_le (sp : Byte) : stackAddr sp ≤ 0x1FFF := by
  have := sp.isLt
  rw [BitVec.le_def, stackAddr, mkAddr_toNat]
  simp
  omega

/-- A push is a bus write at the stack cell, which raises nothing, and then the decrement (40_addressing.md R136). -/
theorem memWrite_stack (v : Byte) (s : State) :
    memWrite (stackAddr s.cpu.sp) v s = some ((push v s).setCpu s.cpu) :=
  memWrite_ram (stackAddr_le _) v s

/-- A pull is the increment and then a bus read at the stack cell (40_addressing.md R137). -/
theorem pull_eq_memRead (s : State) :
    (pull s).1 = (memRead (stackAddr (s.cpu.sp + 1)) s).1 := by
  rw [memRead_ram (stackAddr_le _)]
  rfl

theorem zeroPage_le (a : Byte) : mkAddr 0x00 a ≤ 0x1FFF := by
  have := a.isLt
  rw [BitVec.le_def, mkAddr_toNat]
  simp
  omega

/-- A zero-page byte is what a bus read of its address returns, with no side effect (20_memory.md R69). -/
theorem memRead_zeroPage (a : Byte) (s : State) : memRead (mkAddr 0x00 a) s = (zeroPageByte s a, s) :=
  memRead_ram (zeroPage_le a) s

@[simp] theorem push_fatal (v : Byte) (s : State) : (push v s).fatal = s.fatal := rfl
@[simp] theorem push_ppu (v : Byte) (s : State) : (push v s).ppu = s.ppu := rfl
@[simp] theorem push_dma (v : Byte) (s : State) : (push v s).dma = s.dma := rfl
@[simp] theorem push_g (v : Byte) (s : State) : (push v s).g = s.g := rfl
@[simp] theorem push_fixed (v : Byte) (s : State) : (push v s).fixed = s.fixed := rfl
@[simp] theorem push_trace (v : Byte) (s : State) : (push v s).trace = s.trace := rfl
@[simp] theorem push_joypadReads (v : Byte) (s : State) : (push v s).joypadReads = s.joypadReads := rfl
@[simp] theorem push_cpu (v : Byte) (s : State) : (push v s).cpu = s.cpu.setSp (s.cpu.sp - 1) := rfl
@[simp] theorem push_ramAfter (v : Byte) (s : State) :
    (push v s).ram = Memory.write s.ram (ramIndex (stackAddr s.cpu.sp)) v := rfl

/-- Taking an interrupt in one equation (49_system.md R235, 60_exceptions.md R377): only the CPU and three stack cells
change. -/
theorem enterInterrupt_eq {vector : Addr} (h : 0x4020 ≤ vector) (h' : 0x4020 ≤ vector + 1) (ret : Addr)
    (status : Byte) (s : State) :
    enterInterrupt vector ret status s =
      ((push status (push (loByte ret) (push (hiByte ret) s))).mapCpu fun c =>
        (c.setFlag .i true).setPc (mkAddr (readProgram s (vector + 1)) (readProgram s vector))) := by
  simp only [enterInterrupt, read16_cartridge h h']
  rfl

/-! Cells of RAM and of the stack -/

/-- Two RAM addresses share a cell exactly when they agree in their low eleven bits (20_memory.md R63). -/
theorem ramIndex_eq_iff (a b : Addr) : ramIndex a = ramIndex b ↔ a &&& 0x07FF = b &&& 0x07FF := by
  simp only [ramIndex, BitVec.toNat_inj]

/-- A stack address lies in the first copy of RAM (10_state.md R22). -/
theorem stackAddr_mask (sp : Byte) : stackAddr sp &&& 0x07FF = stackAddr sp := by
  have h : ∀ sp : Byte, stackAddr sp &&& 0x07FF = stackAddr sp := by decide
  exact h sp

/-- Each value of `SP` names a cell of its own. -/
theorem stackAddr_inj (a b : Byte) : stackAddr a = stackAddr b ↔ a = b := by
  refine ⟨fun h => ?_, fun h => by rw [h]⟩
  have := congrArg loByte h
  simpa [stackAddr] using this

/-- A bus write and a change of the CPU commute. -/
theorem memWrite_setCpu (a : Addr) (v : Byte) (c : Cpu) (s : State) :
    memWrite a v (s.setCpu c) = (memWrite a v s).map (·.setCpu c) := by
  unfold memWrite
  split <;> rfl

/-- A write above $1FFF leaves RAM alone. -/
theorem memWrite_ramKept {a : Addr} {v : Byte} {s t : State} (h : memWrite a v s = some t) (ha : 0x1FFF < a) :
    t.ram = s.ram := by
  unfold memWrite at h
  split at h
  · rename_i i hi
    have := (cpuTarget_eq_ram hi).1
    bv_omega
  all_goals first
    | (injection h with h; subst h; rfl)
    | cases h

/-- The RAM and the CPU after a 16-bit push, high byte first (20_memory.md R82). -/
theorem pushAddr_eq (w : Addr) (s : State) :
    pushAddr w s =
      (s.setRam (Memory.write (Memory.write s.ram (ramIndex (stackAddr s.cpu.sp)) (hiByte w))
        (ramIndex (stackAddr (s.cpu.sp - 1))) (loByte w))).setCpu (s.cpu.setSp (s.cpu.sp - 2)) := by
  rw [show s.cpu.sp - 2 = s.cpu.sp - 1 - 1 by bv_omega]
  rfl

/-- The RAM and the CPU after an interrupt was taken through a cartridge vector (49_system.md R235,
60_exceptions.md R377). -/
theorem enterInterrupt_ram {vector : Addr} (h : 0x4020 ≤ vector) (h' : 0x4020 ≤ vector + 1) (ret : Addr)
    (status : Byte) (s : State) :
    enterInterrupt vector ret status s =
      (s.setRam (Memory.write (Memory.write (Memory.write s.ram (ramIndex (stackAddr s.cpu.sp)) (hiByte ret))
        (ramIndex (stackAddr (s.cpu.sp - 1))) (loByte ret)) (ramIndex (stackAddr (s.cpu.sp - 2))) status)).setCpu
        { s.cpu with
          sp := s.cpu.sp - 3, p := setFlag .i true s.cpu.p
          pc := mkAddr (readProgram s (vector + 1)) (readProgram s vector) } := by
  rw [enterInterrupt_eq h h', show s.cpu.sp - 3 = s.cpu.sp - 1 - 1 - 1 by bv_omega,
    show s.cpu.sp - 2 = s.cpu.sp - 1 - 1 by bv_omega]
  rfl

end Sys2Proof.Machine
end

