-- ==== Sys2Proof/Laws/Exec.lean ====
section
/-! SUPPORT. What `exec` does with each operation in every form of it: the shared operation its meaning is, with the
form's base cost. A proof about an instruction starts from these and never splits `exec`. -/

namespace Sys2Proof.Machine

/-- The meaning of an operation that reads its operand, on registers and flags. -/
def readEffect : Operation → Option (Byte → Cpu → Cpu)
  | .lda => some Cpu.lda
  | .ldx => some Cpu.ldx
  | .ldy => some Cpu.ldy
  | .and => some Cpu.and
  | .ora => some Cpu.ora
  | .eor => some Cpu.eor
  | .bit => some Cpu.bitTest
  | .adc => some Cpu.adc
  | .sbc => some Cpu.sbc
  | .cmp => some Cpu.cmp
  | .cpx => some Cpu.cpx
  | .cpy => some Cpu.cpy
  | _ => none

/-- Every form of an operation that reads its operand is `readInstr` with the form's base cost. -/
theorem exec_read {i : Instr} {r : Source} {f : Byte → Cpu → Cpu} (hf : readEffect i.operation = some f)
    (hr : i.operand = .src r) (s : State) : exec i s = readInstr r (patternCost i.operation i.mode) f s := by
  cases i <;> first
    | (cases hf; done)
    | (cases hf; cases hr; rfl)

/-- Every form of a store is `storeInstr` with the form's base cost. -/
theorem exec_store {i : Instr} {m : MemOperand} {s : State} {v : Byte} (hv : storeValue i.operation s.cpu = some v)
    (hm : i.operand = .src (.mem m)) : exec i s = storeInstr m (patternCost i.operation i.mode) v s := by
  cases i <;> first
    | (cases hv; done)
    | (cases hv; cases hm; rfl)

/-- The one-bit move of a shift or rotate. -/
def shiftOf : Operation → Option (Bool → Byte → ShiftResult)
  | .asl => some shiftAsl
  | .lsr => some shiftLsr
  | .rol => some shiftRol
  | .ror => some shiftRor
  | _ => none

/-- Every memory form of a shift or rotate is `shiftMem` with the form's base cost. -/
theorem exec_shiftMem {i : Instr} {m : MemOperand} {f : Bool → Byte → ShiftResult} (hf : shiftOf i.operation = some f)
    (hm : i.operand = .src (.mem m)) (s : State) : exec i s = shiftMem f m (patternCost i.operation i.mode) s := by
  cases i <;> first
    | (cases hf; done)
    | (cases hf; cases hm; done)
    | (cases hf; cases hm; rfl)

/-- The accumulator form of a shift or rotate is `shiftAcc`. -/
theorem exec_shiftAcc {i : Instr} {f : Bool → Byte → ShiftResult} (hf : shiftOf i.operation = some f)
    (hm : i.operand = .src .acc) (s : State) : exec i s = shiftAcc f 2 s := by
  cases i <;> first
    | (cases hf; done)
    | (cases hf; cases hm; done)
    | (cases hf; cases hm; rfl)

/-- Every form of INC is one read-modify-write with the form's base cost. -/
theorem exec_inc {i : Instr} {m : MemOperand} (hi : i.operation = .inc) (hm : i.operand = .src (.mem m)) (s : State) :
    exec i s = modifyInstr m (patternCost i.operation i.mode) (fun _ c => c) (fun b _ => b + 1) s := by
  cases i <;> first
    | (cases hi; done)
    | (cases hi; cases hm; rfl)

/-- Every form of DEC is one read-modify-write with the form's base cost. -/
theorem exec_dec {i : Instr} {m : MemOperand} (hi : i.operation = .dec) (hm : i.operand = .src (.mem m)) (s : State) :
    exec i s = modifyInstr m (patternCost i.operation i.mode) (fun _ c => c) (fun b _ => b - 1) s := by
  cases i <;> first
    | (cases hi; done)
    | (cases hi; cases hm; rfl)

/-- Every branch is `branchInstr` on the flag it tests. -/
theorem exec_branch {i : Instr} {b1 : Byte} {f : Flag} {value : Bool} (hi : branchTest i.operation = some (f, value))
    (hb : i.operand = .rel b1) (s : State) : exec i s = branchInstr (s.cpu.flag f == value) 2 b1 s := by
  cases i <;> first
    | (cases hi; done)
    | (cases hi; cases hb; simp [exec, execBcc, execBcs, execBeq, execBne, execBmi, execBpl, execBvc, execBvs, performBcc,
        performBcs, performBeq, performBne, performBmi, performBpl, performBvc, performBvs, branchInstr])

/-- The page-cross cycle `readInstr` charges is the one the spec's table of costs gives the operation: BIT, CPX and CPY
have no form that crosses a page. -/
theorem pagePenalty_eq_crossCost {i : Instr} {r : Source} {f : Byte → Cpu → Cpu} (hf : readEffect i.operation = some f)
    (hr : i.operand = .src r) (s : State) : pagePenalty r s = crossCost i s := by
  cases i <;> first
    | (cases hf; done)
    | (cases hf; cases hr; rfl)
    | (cases hf; cases hr
       simp only [pagePenalty, crossCost, pageCrossed, pageCrossCosts, Instr.operand, Instr.operation, Bool.and_true]
       split <;> simp_all)

/-! Fetching an operand -/

/-- Fetching an operand touches nothing but the PPU's registers and the joypad oracle's index. -/
theorem fetchOperand_frame (r : Source) (s : State) :
    (fetchOperand r s).2.cpu = s.cpu ∧ (fetchOperand r s).2.fatal = s.fatal ∧ (fetchOperand r s).2.ram = s.ram ∧
    (fetchOperand r s).2.dma = s.dma ∧ (fetchOperand r s).2.g = s.g ∧ (fetchOperand r s).2.fixed = s.fixed ∧
    (fetchOperand r s).2.trace = s.trace := by
  cases r with
  | imm b1 => exact ⟨rfl, rfl, rfl, rfl, rfl, rfl, rfl⟩
  | acc => exact ⟨rfl, rfl, rfl, rfl, rfl, rfl, rfl⟩
  | mem m => exact memRead_frame _ s

@[simp] theorem fetchOperand_cpu (r : Source) (s : State) : (fetchOperand r s).2.cpu = s.cpu :=
  (fetchOperand_frame r s).1

/-- RAM and the cartridge read as the two fields say. -/
theorem byteAt_congr {s t : State} (hr : t.ram = s.ram) (hc : t.fixed = s.fixed) {b : Addr}
    (h : b ≤ 0x1FFF ∨ 0x4020 ≤ b) : byteAt t b = byteAt s b := by
  rcases h with h | h
  · simp only [byteAt, memRead_ram h, hr]
  · simp only [byteAt, memRead_cartridge h, readProgram, hc]

/-- A state with the same RAM and cartridge has the same bytes in both. -/
theorem memoryKept_of_eq {s t : State} (hr : t.ram = s.ram) (hc : t.fixed = s.fixed) : MemoryKept s t :=
  fun _ h => byteAt_congr hr hc h

/-- An instruction that reads its operand leaves this state and no other (40_addressing.md R134, R139). -/
theorem readInstr_eq (r : Source) (base : Nat) (f : Byte → Cpu → Cpu) (s : State) :
    readInstr r base f s = .next ((fetchOperand r s).2.setCpu
      ((f (fetchOperand r s).1 s.cpu).setCyc (base + pagePenalty r s))) := by
  simp only [readInstr, State.charge, State.mapCpu, fetchOperand_cpu]
  rfl

/-- The cost of an operation that reads its operand. -/
theorem exec_read_eq {i : Instr} {r : Source} {f : Byte → Cpu → Cpu} (hf : readEffect i.operation = some f)
    (hr : i.operand = .src r) (s : State) :
    exec i s = .next ((fetchOperand r s).2.setCpu
      ((f (fetchOperand r s).1 s.cpu).setCyc (patternCost i.operation i.mode + crossCost i s))) := by
  rw [exec_read hf hr, readInstr_eq, pagePenalty_eq_crossCost hf hr]

/-- A store is one write of the effective address (41_load_store.md R140). -/
theorem storeInstr_eq (m : MemOperand) (base : Nat) (v : Byte) (s : State) :
    storeInstr m base v s = writeThen (resolve m s).ea v s (·.charge base) := rfl

/-- A read-modify-write instruction leaves one of two states: the written one with Z and N from the result and `cyc`
loaded, or the fatal one with only what came before the write (45_incdec.md R185, 46_shift_rotate.md R195,
60_exceptions.md R385). -/
theorem modifyInstr_eq (m : MemOperand) (base : Nat) (before : Byte → Cpu → Cpu) (result : Byte → Cpu → Byte)
    (s : State) :
    modifyInstr m base before result s =
      match memWrite (resolve m s).ea (result (memRead (resolve m s).ea s).1 s.cpu)
        (memRead (resolve m s).ea s).2 with
      | some w => .next (w.setCpu (((before (memRead (resolve m s).ea s).1 s.cpu).setZN
          (result (memRead (resolve m s).ea s).1 s.cpu)).setCyc base))
      | none => .next (raiseFatal (resolve m s).ea (result (memRead (resolve m s).ea s).1 s.cpu)
          ((memRead (resolve m s).ea s).2.setCpu (before (memRead (resolve m s).ea s).1 s.cpu))) := by
  unfold modifyInstr modifyAt writeBack operandByte writeThen State.mapCpu inMemory
  simp only [memRead_cpu, memWrite_setCpu]
  cases memWrite (resolve m s).ea (result (memRead (resolve m s).ea s).1 s.cpu) (memRead (resolve m s).ea s).2 <;> rfl

/-- A branch always leaves a next state: one with `pc` and `cyc` loaded, or with `cyc` loaded (47_jump_branch.md R209). -/
theorem branchTo_next (condition : Bool) (base : Nat) (target : Addr) (s : State) :
    branchTo condition base target s = .next
      (if condition then
        (s.setCpu (s.cpu.setPc target)).charge (base + (1 + if hiByte target ≠ hiByte s.cpu.pc then 1 else 0))
      else s.charge base) := by
  unfold branchTo
  cases condition <;> rfl

@[inherit_doc branchTo_next]
theorem branchInstr_next (condition : Bool) (base : Nat) (b1 : Byte) (s : State) :
    ∃ t, branchInstr condition base b1 s = .next t :=
  ⟨_, branchTo_next condition base _ s⟩

end Sys2Proof.Machine
end

