-- ==== Sys2Proof/Laws/Fetch.lean ====
section
/-! SUPPORT. What fetching an instruction can do, byte by byte and as a whole. -/

namespace Sys2Proof.Machine

/-- Fetching a byte moves `pc` on and touches nothing else but the PPU's registers and the joypad oracle's index. -/
theorem fetchByte_frame (s : State) :
    (fetchByte s).2.cpu = s.cpu.setPc (s.cpu.pc + 1) ∧ (fetchByte s).2.fatal = s.fatal ∧
    (fetchByte s).2.ram = s.ram ∧ (fetchByte s).2.dma = s.dma ∧ (fetchByte s).2.g = s.g ∧
    (fetchByte s).2.fixed = s.fixed ∧ (fetchByte s).2.trace = s.trace := by
  simp [fetchByte]

/-- Fetching a byte of RAM or of the cartridge changes `pc` only. -/
theorem fetchByte_memory {s : State} (h : s.cpu.pc ≤ 0x1FFF ∨ 0x4020 ≤ s.cpu.pc) :
    fetchByte s = (byteAt s s.cpu.pc, s.setCpu (s.cpu.setPc (s.cpu.pc + 1))) := by
  have : (memRead s.cpu.pc s).2 = s := by
    rcases h with h | h
    · rw [memRead_ram h]
    · rw [memRead_cartridge h]
  simp only [fetchByte, this]

theorem ofNat_add_one (n : Nat) : BitVec.ofNat 16 n + 1 = BitVec.ofNat 16 (n + 1) := by
  rw [BitVec.ofNat_add]
  rfl

/-- Fetching `n` bytes moves `pc` on by `n`. -/
theorem fetchBytes_frame (n : Nat) (s : State) :
    (fetchBytes n s).2.cpu = s.cpu.setPc (s.cpu.pc + BitVec.ofNat 16 n) ∧ (fetchBytes n s).2.fatal = s.fatal ∧
    (fetchBytes n s).2.ram = s.ram ∧ (fetchBytes n s).2.dma = s.dma ∧ (fetchBytes n s).2.g = s.g ∧
    (fetchBytes n s).2.fixed = s.fixed ∧ (fetchBytes n s).2.trace = s.trace := by
  induction n generalizing s with
  | zero => simp [fetchBytes, Cpu.setPc]
  | succ n ih =>
    obtain ⟨h1, h2, h3, h4, h5, h6, h7⟩ := ih (fetchByte s).2
    obtain ⟨g1, g2, g3, g4, g5, g6, g7⟩ := fetchByte_frame s
    refine ⟨h1.trans ?_, h2.trans g2, h3.trans g3, h4.trans g4, h5.trans g5, h6.trans g6, h7.trans g7⟩
    rw [g1]
    simp only [Cpu.setPc]
    rw [BitVec.add_assoc, BitVec.add_comm 1, ofNat_add_one]

/-- What the opcode table holds for a byte: a well-formed instruction of one, two or three bytes whose encoding starts
with that byte, the undefined-opcode entry exactly for the undefined opcodes (30_encoding.md R101, R104, R108, R110). -/
theorem opcodeEntry_cases (op : Byte) :
    (∃ i, opcodeEntry op = .f1 i ∧ encode i = [op] ∧ i.WellFormed ∧ i.length = 1 ∧
      (i = .und op ↔ op ∈ undefinedOpcodes)) ∨
    (∃ mk, opcodeEntry op = .f2 mk ∧ ∀ b, encode (mk b) = [op, b] ∧ (mk b).WellFormed ∧ (mk b).length = 2 ∧
      (mk b = .und op ↔ op ∈ undefinedOpcodes)) ∨
    (∃ mk, opcodeEntry op = .f3 mk ∧ ∀ w, encode (mk w) = [op, loByte w, hiByte w] ∧ (mk w).WellFormed ∧
      (mk w).length = 3 ∧ (mk w = .und op ↔ op ∈ undefinedOpcodes)) := by
  have hn := op.isLt
  rw [show op = BitVec.ofNat 8 op.toNat by simp]
  generalize op.toNat = n at hn
  have hn : n < 256 := hn
  interval_cases n
  all_goals first
    | (refine .inl ⟨_, rfl, ?_⟩
       refine ⟨rfl, rfl, rfl, ?_⟩
       decide)
    | (refine .inr (.inl ⟨_, rfl, ?_⟩)
       intro b
       refine ⟨rfl, rfl, rfl, fun h => ?_, fun h => absurd h (by decide)⟩
       cases h)
    | (refine .inr (.inr ⟨_, rfl, ?_⟩)
       intro w
       refine ⟨rfl, rfl, rfl, fun h => ?_, fun h => absurd h (by decide)⟩
       cases h)

/-- The fetched instruction in the three formats (30_encoding.md R105). -/
theorem fetchInstr_f1 {s : State} {i : Instr} (h : opcodeEntry (fetchByte s).1 = .f1 i) :
    fetchInstr s = (i, (fetchByte s).2) := by
  simp only [fetchInstr, h, fetchOperands]

@[inherit_doc fetchInstr_f1]
theorem fetchInstr_f2 {s : State} {mk : Byte → Instr} (h : opcodeEntry (fetchByte s).1 = .f2 mk) :
    fetchInstr s = (mk (fetchByte (fetchByte s).2).1, (fetchByte (fetchByte s).2).2) := by
  simp only [fetchInstr, h, fetchOperands]

@[inherit_doc fetchInstr_f1]
theorem fetchInstr_f3 {s : State} {mk : Addr → Instr} (h : opcodeEntry (fetchByte s).1 = .f3 mk) :
    fetchInstr s =
      (mk (mkAddr (fetchByte (fetchByte (fetchByte s).2).2).1 (fetchByte (fetchByte s).2).1),
        (fetchByte (fetchByte (fetchByte s).2).2).2) := by
  simp only [fetchInstr, h, fetchOperands, fetchAddr]

/-- The state after the fetch of an instruction is that after the fetch of its bytes. -/
theorem fetchInstr_state (s : State) : (fetchInstr s).2 = (fetchBytes (fetchInstr s).1.length s).2 := by
  rcases opcodeEntry_cases (fetchByte s).1 with ⟨i, h, -, -, hl, -⟩ | ⟨mk, h, hm⟩ | ⟨mk, h, hm⟩
  · rw [fetchInstr_f1 h, hl]; rfl
  · rw [fetchInstr_f2 h, (hm _).2.2.1]; rfl
  · rw [fetchInstr_f3 h, (hm _).2.2.1]; rfl

end Sys2Proof.Machine
end

