-- ==== Sys2Proof/Laws/PpuTick.lean ====
section
/-! SUPPORT. What each stage of a PPU tick can do: the PPU it leaves as a function of the PPU it found, and what it
leaves alone. Proofs about `ppuTick` cite these and unfold no stage. -/

namespace Sys2Proof.Machine

/-- Taking an interrupt through a cartridge vector touches the CPU and RAM only. -/
theorem enterNmi_frame (s : State) :
    (enterNmi s).fatal = s.fatal ∧ (enterNmi s).ppu = s.ppu ∧ (enterNmi s).dma = s.dma ∧ (enterNmi s).g = s.g ∧
    (enterNmi s).fixed = s.fixed ∧ (enterNmi s).trace = s.trace ∧ (enterNmi s).joypadReads = s.joypadReads := by
  have h1 : (0x4020 : Addr) ≤ nmiVector := by decide
  have h2 : (0x4020 : Addr) ≤ nmiVector + 1 := by decide
  simp [enterNmi, enterInterrupt_eq h1 h2, push, State.mapCpu]

/-! The stages on the PPU -/

/-- The PPU after the status events of a tick. -/
def Ppu.afterEvents (p : Ppu) : Ppu :=
  if p.scanline = -1 ∧ p.cycle = 0 then prerenderClear p
  else if p.scanline = 241 ∧ p.cycle = 0 then { p with status := p.status ||| 0x80 }
  else p

/-- The PPU after the rendering stage of a tick. -/
def Ppu.afterRender (fixed : Fixed) (p : Ppu) : Ppu :=
  if p.renderingEnabled ∧ -1 ≤ p.scanline ∧ p.scanline ≤ 239 then renderCycle fixed p else p

/-- The PPU after the pixel stage of a tick. -/
def Ppu.afterPixel (fixed : Fixed) (p : Ppu) : Ppu :=
  if 0 ≤ p.scanline ∧ p.scanline ≤ 239 ∧ p.cycle ≤ 255 then spriteCycle fixed (markSpriteZeroHit fixed p) else p

/-- The PPU at the next position. -/
def Ppu.afterAdvance (p : Ppu) : Ppu :=
  if p.cycle < 340 then { p with cycle := p.cycle + 1 }
  else if p.scanline < 260 then { p with cycle := 0, scanline := p.scanline + 1 }
  else { p with cycle := 0, scanline := -1 }

/-- The status events, on the PPU and outside it. -/
theorem statusEvents_spec (s : State) :
    (statusEvents s).ppu = s.ppu.afterEvents ∧ (statusEvents s).fixed = s.fixed ∧
    (statusEvents s).trace = s.trace ∧ (statusEvents s).fatal = s.fatal ∧ (statusEvents s).dma = s.dma ∧
    (statusEvents s).g = s.g ∧ (statusEvents s).joypadReads = s.joypadReads := by
  unfold statusEvents Ppu.afterEvents vblankEntry
  split
  · exact ⟨rfl, rfl, rfl, rfl, rfl, rfl, rfl⟩
  · split
    · dsimp only
      split
      · have h := enterNmi_frame (s.setPpu { s.ppu with status := s.ppu.status ||| 0x80 })
        exact ⟨h.2.1, h.2.2.2.2.1, h.2.2.2.2.2.1, h.1, h.2.2.1, h.2.2.2.1, h.2.2.2.2.2.2⟩
      · exact ⟨rfl, rfl, rfl, rfl, rfl, rfl, rfl⟩
    · exact ⟨rfl, rfl, rfl, rfl, rfl, rfl, rfl⟩

/-- The rendering stage replaces the PPU and nothing else. -/
theorem renderStage_eq (s : State) : renderStage s = s.setPpu (s.ppu.afterRender s.fixed) := by
  unfold renderStage Ppu.afterRender
  split <;> rfl

/-- The pixel stage replaces the PPU and, in a visible tick, emits one `drawPixel`. -/
theorem pixelStage_eq (s : State) :
    pixelStage s = { s with
      ppu := s.ppu.afterPixel s.fixed
      trace := if 0 ≤ s.ppu.scanline ∧ s.ppu.scanline ≤ 239 ∧ s.ppu.cycle ≤ 255 then
        .drawPixel s.ppu.cycle s.ppu.scanline.toNat (pixelColor s.fixed s.ppu) :: s.trace else s.trace } := by
  unfold pixelStage Ppu.afterPixel
  split <;> rfl

/-- The advance replaces the position and, at its wrap, emits `presentFrame`. -/
theorem advancePosition_eq (s : State) :
    advancePosition s = { s with
      ppu := s.ppu.afterAdvance
      trace := if s.ppu.cycle < 340 ∨ s.ppu.scanline < 260 then s.trace else .presentFrame :: s.trace } := by
  unfold advancePosition Ppu.afterAdvance
  by_cases h : s.ppu.cycle < 340
  · simp only [h, if_true, true_or]; rfl
  · by_cases h' : s.ppu.scanline < 260
    · simp only [h, h', if_true, if_false, or_true]; rfl
    · simp only [h, h', if_false, or_self]; rfl

/-- The PPU after a whole tick (51_ppu_rendering.md R291). -/
theorem ppuTick_ppu (s : State) :
    (ppuTick s).ppu =
      (((s.ppu.afterEvents).afterRender s.fixed).afterPixel s.fixed).afterAdvance := by
  unfold ppuTick
  rw [advancePosition_eq, pixelStage_eq, renderStage_eq]
  simp [(statusEvents_spec s).1, (statusEvents_spec s).2.1]

/-- A PPU tick leaves everything but the PPU, the trace and, on NMI, the CPU and RAM alone. -/
theorem ppuTick_frame (s : State) :
    (ppuTick s).fixed = s.fixed ∧ (ppuTick s).fatal = s.fatal ∧ (ppuTick s).dma = s.dma ∧ (ppuTick s).g = s.g ∧
    (ppuTick s).joypadReads = s.joypadReads ∧ (ppuTick s).cpu = (statusEvents s).cpu ∧
    (ppuTick s).ram = (statusEvents s).ram := by
  unfold ppuTick
  rw [advancePosition_eq, pixelStage_eq, renderStage_eq]
  have h := statusEvents_spec s
  exact ⟨h.2.1, h.2.2.2.1, h.2.2.2.2.1, h.2.2.2.2.2.1, h.2.2.2.2.2.2, rfl, rfl⟩

/-! What the stages leave alone -/

/-- The scan of OAM writes secondary OAM, its count, the sprite-0 flag and the overflow bit. -/
theorem scanOam_frame (l : List Nat) (p : Ppu) :
    scanOam l p = { p with
      secOam := (scanOam l p).secOam, spriteCount := (scanOam l p).spriteCount,
      spr0Next := (scanOam l p).spr0Next, status := (scanOam l p).status } := by
  induction l generalizing p with
  | nil => rfl
  | cons n rest ih =>
    unfold scanOam
    split
    · split
      · rw [ih]
      · rfl
    · rw [ih]

/-- Sprite evaluation writes secondary OAM, its count, the sprite-0 flag and the overflow bit. -/
theorem spriteEvaluate_frame (p : Ppu) :
    spriteEvaluate p = { p with
      secOam := (spriteEvaluate p).secOam, spriteCount := (spriteEvaluate p).spriteCount,
      spr0Next := (spriteEvaluate p).spr0Next, status := (spriteEvaluate p).status } := by
  have h := scanOam_frame (List.range 64) { p with
    secOam := clearSecOam p.secOam, spriteCount := 0, spr0Next := false }
  exact h

/-- `SpriteStep` and the evaluation and fetch at cycle 255 write the slots, secondary OAM and the sprite status. -/
theorem spriteCycle_frame (fixed : Fixed) (p : Ppu) :
    spriteCycle fixed p = { p with
      secOam := (spriteCycle fixed p).secOam, spriteCount := (spriteCycle fixed p).spriteCount,
      spr0Next := (spriteCycle fixed p).spr0Next, spr0Line := (spriteCycle fixed p).spr0Line,
      slots := (spriteCycle fixed p).slots, status := (spriteCycle fixed p).status } := by
  unfold spriteCycle
  split
  · dsimp only
    split
    · have h := spriteEvaluate_frame (spriteStep p)
      generalize spriteEvaluate (spriteStep p) = q at h ⊢
      rw [h]
      rfl
    · rfl
  · rfl

/-- The pixel stage writes the slots, secondary OAM and the sprite status. -/
theorem afterPixel_frame (fixed : Fixed) (p : Ppu) :
    p.afterPixel fixed = { p with
      secOam := (p.afterPixel fixed).secOam, spriteCount := (p.afterPixel fixed).spriteCount,
      spr0Next := (p.afterPixel fixed).spr0Next, spr0Line := (p.afterPixel fixed).spr0Line,
      slots := (p.afterPixel fixed).slots, status := (p.afterPixel fixed).status } := by
  unfold Ppu.afterPixel
  split
  · rw [spriteCycle_frame]
    unfold markSpriteZeroHit
    split <;> rfl
  · rfl

/-- The sprite-0 hit writes the status. -/
theorem markSpriteZeroHit_frame (fixed : Fixed) (p : Ppu) :
    markSpriteZeroHit fixed p = { p with status := (markSpriteZeroHit fixed p).status } := by
  unfold markSpriteZeroHit
  split <;> rfl

/-- The status events write the status, the slots and their two counts. -/
theorem afterEvents_frame (p : Ppu) :
    p.afterEvents = { p with
      status := p.afterEvents.status, slots := p.afterEvents.slots, spriteCount := p.afterEvents.spriteCount,
      spr0Line := p.afterEvents.spr0Line } := by
  unfold Ppu.afterEvents
  split
  · rfl
  · split <;> rfl

/-- Two PPUs that agree outside what the rendering stage writes: `v`, the OAM address, the shift registers and the
latches. -/
def Ppu.SameButRender (p q : Ppu) : Prop :=
  q = { p with
    v := q.v, oamAddr := q.oamAddr, bgPatLo := q.bgPatLo, bgPatHi := q.bgPatHi, bgAttrLo := q.bgAttrLo,
    bgAttrHi := q.bgAttrHi, nextTileId := q.nextTileId, nextAttr := q.nextAttr, nextPatLo := q.nextPatLo,
    nextPatHi := q.nextPatHi }

theorem Ppu.SameButRender.setV {p q : Ppu} (h : p.SameButRender q) (v : BitVec 15) :
    p.SameButRender { q with v := v } := by
  have := congrArg (fun r : Ppu => { r with v := v }) h
  exact this

theorem Ppu.SameButRender.setOamAddr {p q : Ppu} (h : p.SameButRender q) (a : Byte) :
    p.SameButRender { q with oamAddr := a } := by
  have := congrArg (fun r : Ppu => { r with oamAddr := a }) h
  exact this

theorem bgSubCycle_frame (fixed : Fixed) (sub : Nat) (p : Ppu) :
    p.SameButRender (bgSubCycle fixed sub (bgShift p)) := by
  unfold bgSubCycle
  split <;> rfl

/-- The rendering stage writes `v`, the OAM address, the shift registers and the latches. -/
theorem renderCycle_frame (fixed : Fixed) (p : Ppu) : p.SameButRender (renderCycle fixed p) := by
  have hite : ∀ (c : Prop) [Decidable c] (q r : Ppu), p.SameButRender q → p.SameButRender r →
      p.SameButRender (if c then q else r) := by
    intro c _ q r hq hr
    split <;> assumption
  have h1 := hite (p.cycle ≤ 255 ∨ (320 ≤ p.cycle ∧ p.cycle ≤ 335)) _ p (bgSubCycle_frame fixed (p.cycle % 8) p) rfl
  have hv : ∀ (c : Prop) [Decidable c] (f : Ppu → BitVec 15) (q : Ppu), p.SameButRender q →
      p.SameButRender (if c then { q with v := f q } else q) := fun c _ f q hq => hite c _ q (hq.setV (f q)) hq
  have h2 := hv (p.cycle = 255) (fun q => incYv q.v) _ h1
  have h3 := hv (p.cycle = 256) (fun q => resetXv q.v q.t) _ h2
  have h4 := hite (256 ≤ p.cycle ∧ p.cycle ≤ 319) _ _ (h3.setOamAddr 0) h3
  exact hv (p.scanline = -1 ∧ 280 ≤ p.cycle ∧ p.cycle ≤ 304) (fun q => resetYv q.v q.t) _ h4

/-- The rendering stage writes what `renderCycle` writes. -/
theorem afterRender_frame (fixed : Fixed) (p : Ppu) : p.SameButRender (p.afterRender fixed) := by
  unfold Ppu.afterRender
  split
  · exact renderCycle_frame fixed p
  · rfl

/-- The PPU after a tick that is not visible: no pixel stage (51_ppu_rendering.md R291, R317). -/
theorem ppuTick_notVisible {s : State} (h : ¬(0 ≤ s.ppu.scanline ∧ s.ppu.scanline ≤ 239 ∧ s.ppu.cycle ≤ 255)) :
    (ppuTick s).ppu = (s.ppu.afterEvents.afterRender s.fixed).afterAdvance := by
  rw [ppuTick_ppu]
  congr 1
  unfold Ppu.afterPixel
  rw [if_neg]
  rw [afterRender_frame, afterEvents_frame]
  exact h

/-- The PPU after a visible tick: no status event, then the pixel stage on what the rendering stage left
(51_ppu_rendering.md R291, R317). -/
theorem ppuTick_visible {s : State} (h : 0 ≤ s.ppu.scanline ∧ s.ppu.scanline ≤ 239 ∧ s.ppu.cycle ≤ 255) :
    (ppuTick s).ppu = (spriteCycle s.fixed (markSpriteZeroHit s.fixed (renderStage s).ppu)).afterAdvance := by
  have he : s.ppu.afterEvents = s.ppu := by
    unfold Ppu.afterEvents
    rw [if_neg (by have := h.1; omega), if_neg (by have := h.2.1; omega)]
  rw [ppuTick_ppu, he, renderStage_eq, State.setPpu_ppu]
  congr 1
  unfold Ppu.afterPixel
  rw [if_pos]
  rw [afterRender_frame]
  exact h

end Sys2Proof.Machine
end

