-- ==== Sys2Proof/Laws/MemoryForm.lean ====
section
/-! SUPPORT. Every operation that writes a memory keeps every memory's canonical form inside its address range, and the
state after reset has it. -/

namespace Sys2Proof.Machine

/-- The private memories of the PPU are canonical (10_state.md R35, R36, R42, R43). -/
structure Ppu.MemoriesWf (p : Ppu) : Prop where
  oam : Memory.wf 0 256 p.oam
  secOam : Memory.wf 0 32 p.secOam
  nt : Memory.wf 0 2048 p.nt
  pal : Memory.wf 0 32 p.pal

/-- Every memory of the machine is canonical (10_state.md R41, 20_memory.md R66, R75). -/
structure State.MemoriesWf (s : State) : Prop where
  ram : Memory.wf 0 2048 s.ram
  ppu : s.ppu.MemoriesWf
  program : Memory.wf 0x4020 0x10000 s.fixed.program
  tiles : Memory.wf 0 0x2000 s.fixed.tiles

theorem memoriesWf_reset : State.reset.MemoriesWf := ⟨rfl, ⟨rfl, rfl, rfl, rfl⟩, rfl, rfl⟩

/-! Keys stay in range -/

/-- The palette key as a number (20_memory.md R77). -/
theorem palIndex_eq (a : Addr) : palIndex a = if a.toNat % 4 = 0 then a.toNat % 16 else a.toNat % 32 := by
  have : (a &&& 0x1F).toNat = a.toNat % 32 := by
    rw [BitVec.toNat_and]
    exact Nat.and_two_pow_sub_one_eq_mod a.toNat 5
  unfold palIndex
  simp only [this]
  split <;> split <;> omega

theorem palIndex_lt (a : Addr) : palIndex a < 32 := by
  rw [palIndex_eq]
  split <;> omega

theorem ntKey_lt (m : Mirroring) (a : Addr) : ntKey m a < 2048 := by
  have h1 : (a &&& 0x0FFF).toNat < 4096 := by
    rw [BitVec.toNat_and]
    exact Nat.lt_of_le_of_lt Nat.and_le_right (by decide)
  have h2 : (a &&& 0x03FF).toNat < 1024 := by
    rw [BitVec.toNat_and]
    exact Nat.lt_of_le_of_lt Nat.and_le_right (by decide)
  unfold ntKey ntBank logicalNametable
  cases m <;> simp only <;> omega

/-! The PPU -/

theorem Ppu.MemoriesWf.ppuWrite {p : Ppu} (h : p.MemoriesWf) (fixed : Fixed) (a : Addr) (v : Byte) :
    (Machine.ppuWrite fixed a v p).MemoriesWf := by
  unfold Machine.ppuWrite
  dsimp only
  split
  · exact h
  · split
    · exact { h with nt := Memory.wf_write (Nat.zero_le _) (ntKey_lt _ _) h.nt _ }
    · exact { h with pal := Memory.wf_write (Nat.zero_le _) (palIndex_lt _) h.pal _ }

theorem Ppu.MemoriesWf.regRead {p : Ppu} (h : p.MemoriesWf) (fixed : Fixed) (n : BitVec 3) :
    (ppuRegRead fixed n p).2.MemoriesWf := by
  unfold ppuRegRead
  split <;> exact ⟨h.oam, h.secOam, h.nt, h.pal⟩

theorem Ppu.MemoriesWf.regWrite {p : Ppu} (h : p.MemoriesWf) (fixed : Fixed) (n : BitVec 3) (d : Byte) :
    (ppuRegWrite fixed n d p).MemoriesWf := by
  unfold ppuRegWrite
  split
  · exact ⟨h.oam, h.secOam, h.nt, h.pal⟩
  · exact ⟨h.oam, h.secOam, h.nt, h.pal⟩
  · exact ⟨h.oam, h.secOam, h.nt, h.pal⟩
  · exact ⟨Memory.wf_write (Nat.zero_le _) p.oamAddr.isLt h.oam _, h.secOam, h.nt, h.pal⟩
  · unfold scrollWrite
    split <;> exact ⟨h.oam, h.secOam, h.nt, h.pal⟩
  · unfold addrWrite
    split <;> exact ⟨h.oam, h.secOam, h.nt, h.pal⟩
  · have := h.ppuWrite fixed (ppuFold (vramAddr p.v)) d
    exact ⟨this.oam, this.secOam, this.nt, this.pal⟩
  · exact h

theorem wf_clearSecOam {m : Memory} (hm : Memory.wf 0 32 m) : Memory.wf 0 32 (clearSecOam m) := by
  have : ∀ (l : List Nat) (m : Memory), (∀ k ∈ l, k < 32) → Memory.wf 0 32 m →
      Memory.wf 0 32 (l.foldl (fun m k => Memory.write m k 0xFF) m) := by
    intro l
    induction l with
    | nil => intro m _ h; exact h
    | cons k l ih =>
      intro m hk h
      exact ih _ (fun j hj => hk j (List.mem_cons_of_mem _ hj))
        (Memory.wf_write (Nat.zero_le _) (hk k (List.mem_cons_self ..)) h _)
  exact this _ _ (by simp) hm

theorem wf_copyEntry {p : Ppu} (hm : Memory.wf 0 32 p.secOam) (n : Nat) {i : Nat} (hi : i < 8) :
    Memory.wf 0 32 (copyEntry p n i) := by
  have : ∀ (l : List Nat) (m : Memory), (∀ k ∈ l, k < 4) → Memory.wf 0 32 m →
      Memory.wf 0 32 (l.foldl (fun m k => Memory.write m (4 * i + k) (oamByte p n k)) m) := by
    intro l
    induction l with
    | nil => intro m _ h; exact h
    | cons k l ih =>
      intro m hk h
      have := hk k (List.mem_cons_self ..)
      exact ih _ (fun j hj => hk j (List.mem_cons_of_mem _ hj)) (Memory.wf_write (Nat.zero_le _) (by omega) h _)
  exact this _ _ (by simp) hm

theorem wf_scanOam (l : List Nat) {p : Ppu} (h : Memory.wf 0 32 p.secOam) : Memory.wf 0 32 (scanOam l p).secOam := by
  induction l generalizing p with
  | nil => exact h
  | cons n l ih =>
    unfold scanOam
    split
    · split
      · rename_i h8
        exact ih (p := { p with
          secOam := copyEntry p n p.spriteCount, spr0Next := p.spr0Next || decide (n = 0)
          spriteCount := p.spriteCount + 1 }) (wf_copyEntry h n h8)
      · exact h
    · exact ih h

theorem Ppu.MemoriesWf.evaluate {p : Ppu} (h : p.MemoriesWf) : (spriteEvaluate p).MemoriesWf := by
  have hc := wf_clearSecOam h.secOam
  unfold spriteEvaluate
  generalize clearSecOam p.secOam = m at hc
  have h1 := wf_scanOam (List.range 64) (p := { p with secOam := m, spriteCount := 0, spr0Next := false }) hc
  rw [scanOam_frame]
  exact ⟨h.oam, h1, h.nt, h.pal⟩

theorem Ppu.MemoriesWf.tick {p : Ppu} (h : p.MemoriesWf) (fixed : Fixed) :
    (((p.afterEvents).afterRender fixed).afterPixel fixed).afterAdvance.MemoriesWf := by
  have h1 : p.afterEvents.MemoriesWf := by
    rw [afterEvents_frame]
    exact ⟨h.oam, h.secOam, h.nt, h.pal⟩
  have h2 : (p.afterEvents.afterRender fixed).MemoriesWf := by
    rw [afterRender_frame]
    exact ⟨h1.oam, h1.secOam, h1.nt, h1.pal⟩
  have h3 : ((p.afterEvents.afterRender fixed).afterPixel fixed).MemoriesWf := by
    generalize p.afterEvents.afterRender fixed = q at h2
    unfold Ppu.afterPixel
    split
    · have h4 : (spriteStep (markSpriteZeroHit fixed q)).MemoriesWf := by
        unfold markSpriteZeroHit
        split <;> exact ⟨h2.oam, h2.secOam, h2.nt, h2.pal⟩
      unfold spriteCycle
      split
      · dsimp only
        split
        · have := h4.evaluate
          exact ⟨this.oam, this.secOam, this.nt, this.pal⟩
        · exact h4
      · unfold markSpriteZeroHit
        split <;> exact ⟨h2.oam, h2.secOam, h2.nt, h2.pal⟩
    · exact h2
  generalize (p.afterEvents.afterRender fixed).afterPixel fixed = r at h3
  unfold Ppu.afterAdvance
  split
  · exact ⟨h3.oam, h3.secOam, h3.nt, h3.pal⟩
  · split <;> exact ⟨h3.oam, h3.secOam, h3.nt, h3.pal⟩

/-! The buses, the stack, DMA, placing a program -/

theorem State.MemoriesWf.memRead {s : State} (h : s.MemoriesWf) (a : Addr) : (Machine.memRead a s).2.MemoriesWf := by
  unfold Machine.memRead
  split
  · exact h
  · exact { h with ppu := h.ppu.regRead _ _ }
  all_goals exact { h with }

theorem State.MemoriesWf.memWrite {s t : State} (h : s.MemoriesWf) {a : Addr} {v : Byte}
    (ht : Machine.memWrite a v s = some t) : t.MemoriesWf := by
  unfold Machine.memWrite at ht
  split at ht
  · injection ht with ht
    subst ht
    rename_i i hi
    rw [(cpuTarget_eq_ram hi).2]
    exact { h with ram := Memory.wf_write (Nat.zero_le _) (ramIndex_lt a) h.ram v }
  · injection ht with ht
    subst ht
    exact { h with ppu := h.ppu.regWrite _ _ _ }
  · injection ht with ht
    subst ht
    exact { h with ppu := ⟨h.ppu.oam, h.ppu.secOam, h.ppu.nt, h.ppu.pal⟩ }
  · injection ht with ht
    subst ht
    exact { h with }
  · injection ht with ht
    subst ht
    exact { h with }
  · injection ht with ht
    subst ht
    exact { h with }
  · injection ht with ht
    subst ht
    exact h
  · cases ht

theorem State.MemoriesWf.push {s : State} (h : s.MemoriesWf) (v : Byte) : (Machine.push v s).MemoriesWf :=
  { h with ram := Memory.wf_write (Nat.zero_le _) (ramIndex_lt _) h.ram v }

theorem State.MemoriesWf.enterNmi {s : State} (h : s.MemoriesWf) : (Machine.enterNmi s).MemoriesWf := by
  unfold Machine.enterNmi
  rw [enterInterrupt_eq (by decide) (by decide)]
  have h3 := ((h.push (hiByte s.cpu.pc)).push (loByte s.cpu.pc)).push s.cpu.p
  exact ⟨h3.ram, h3.ppu, h3.program, h3.tiles⟩

theorem State.MemoriesWf.enterBrk {s : State} (h : s.MemoriesWf) : (Machine.enterBrk s).MemoriesWf := by
  unfold Machine.enterBrk
  rw [enterInterrupt_eq (by decide) (by decide)]
  have h3 := ((h.push (hiByte (s.cpu.pc + 1))).push (loByte (s.cpu.pc + 1))).push (pushedStatus s.cpu.p)
  exact ⟨h3.ram, h3.ppu, h3.program, h3.tiles⟩

theorem State.MemoriesWf.dmaStep {s : State} (h : s.MemoriesWf) : (Machine.dmaStep s).MemoriesWf := by
  unfold Machine.dmaStep
  split
  · split
    · exact { h with }
    · exact h
  · split
    · exact { h with
        ppu := ⟨Memory.wf_write (Nat.zero_le _) s.dma.index.isLt h.ppu.oam _, h.ppu.secOam, h.ppu.nt, h.ppu.pal⟩ }
    · exact { h.memRead (dmaAddr s.dma) with }

theorem State.MemoriesWf.ppuTick {s : State} (h : s.MemoriesWf) : (Machine.ppuTick s).MemoriesWf := by
  have hp := h.ppu.tick s.fixed
  rw [← ppuTick_ppu] at hp
  have f := ppuTick_frame s
  refine ⟨?_, hp, f.1 ▸ h.program, f.1 ▸ h.tiles⟩
  rw [f.2.2.2.2.2.2]
  unfold statusEvents
  split
  · exact h.ram
  · split
    · unfold vblankEntry
      dsimp only
      split
      · have h1 : (s.setPpu { s.ppu with status := s.ppu.status ||| 0x80 }).MemoriesWf :=
          { h with ppu := ⟨h.ppu.oam, h.ppu.secOam, h.ppu.nt, h.ppu.pal⟩ }
        exact h1.enterNmi.ram
      · exact h.ram
    · exact h.ram

theorem State.MemoriesWf.placeByte {s : State} (h : s.MemoriesWf) (a : Addr) (v : Byte) :
    (Machine.placeByte a v s).MemoriesWf := by
  unfold Machine.placeByte
  split
  · rename_i i hi
    rw [(cpuTarget_eq_ram hi).2]
    exact { h with ram := Memory.wf_write (Nat.zero_le _) (ramIndex_lt a) h.ram v }
  · rename_i hi
    have := (cpuTarget_eq_cartridge_iff a).1 hi
    exact { h with program := Memory.wf_write (by bv_omega) a.isLt h.program v }
  · exact h

theorem State.MemoriesWf.withFetchWord {s : State} (h : s.MemoriesWf) (nbits w : Nat) :
    (s.withFetchWord nbits w).MemoriesWf := by
  unfold State.withFetchWord
  dsimp only
  generalize (if placeable s.cpu.pc && placeable (s.cpu.pc + 1) && placeable (s.cpu.pc + 2) then s.cpu.pc else 0) = pc
  have h3 := ((h.placeByte pc (BitVec.ofNat 8 (w % 2 ^ nbits))).placeByte (pc + 1)
    (BitVec.ofNat 8 (w % 2 ^ nbits / 2 ^ 8))).placeByte (pc + 2) (BitVec.ofNat 8 (w % 2 ^ nbits / 2 ^ 16))
  exact ⟨h3.ram, ⟨h.ppu.oam, h.ppu.secOam, h.ppu.nt, h.ppu.pal⟩, h3.program, h3.tiles⟩

end Sys2Proof.Machine
end

