-- ==== Sys2Proof/Laws/PerInstr.lean ====
section
/-! SUPPORT. Facts about every instruction as syntax, one lemma per constructor of Instr.
Family EncodedLength: an instruction's bytes are as many as its mode says (30_encoding.md R104). -/

namespace Sys2Proof.Laws.EncodedLength

/-- The bytes of an instruction are as many as its mode says (30_encoding.md R104). -/
def Statement (i : Instr) : Prop := (encode i).length = i.length

theorem ldaImm (imm : Byte) : Statement (.ldaImm imm) := rfl
theorem ldaZp (zp : Byte) : Statement (.ldaZp zp) := rfl
theorem ldaZpx (zp : Byte) : Statement (.ldaZpx zp) := rfl
theorem ldaAbs (addr : Addr) : Statement (.ldaAbs addr) := rfl
theorem ldaAbx (addr : Addr) : Statement (.ldaAbx addr) := rfl
theorem ldaAby (addr : Addr) : Statement (.ldaAby addr) := rfl
theorem ldaIzx (zp : Byte) : Statement (.ldaIzx zp) := rfl
theorem ldaIzy (zp : Byte) : Statement (.ldaIzy zp) := rfl
theorem ldxImm (imm : Byte) : Statement (.ldxImm imm) := rfl
theorem ldxZp (zp : Byte) : Statement (.ldxZp zp) := rfl
theorem ldxZpy (zp : Byte) : Statement (.ldxZpy zp) := rfl
theorem ldxAbs (addr : Addr) : Statement (.ldxAbs addr) := rfl
theorem ldxAby (addr : Addr) : Statement (.ldxAby addr) := rfl
theorem ldyImm (imm : Byte) : Statement (.ldyImm imm) := rfl
theorem ldyZp (zp : Byte) : Statement (.ldyZp zp) := rfl
theorem ldyZpx (zp : Byte) : Statement (.ldyZpx zp) := rfl
theorem ldyAbs (addr : Addr) : Statement (.ldyAbs addr) := rfl
theorem ldyAbx (addr : Addr) : Statement (.ldyAbx addr) := rfl
theorem staZp (zp : Byte) : Statement (.staZp zp) := rfl
theorem staZpx (zp : Byte) : Statement (.staZpx zp) := rfl
theorem staAbs (addr : Addr) : Statement (.staAbs addr) := rfl
theorem staAbx (addr : Addr) : Statement (.staAbx addr) := rfl
theorem staAby (addr : Addr) : Statement (.staAby addr) := rfl
theorem staIzx (zp : Byte) : Statement (.staIzx zp) := rfl
theorem staIzy (zp : Byte) : Statement (.staIzy zp) := rfl
theorem stxZp (zp : Byte) : Statement (.stxZp zp) := rfl
theorem stxZpy (zp : Byte) : Statement (.stxZpy zp) := rfl
theorem stxAbs (addr : Addr) : Statement (.stxAbs addr) := rfl
theorem styZp (zp : Byte) : Statement (.styZp zp) := rfl
theorem styZpx (zp : Byte) : Statement (.styZpx zp) := rfl
theorem styAbs (addr : Addr) : Statement (.styAbs addr) := rfl
theorem tax : Statement (.tax) := rfl
theorem tay : Statement (.tay) := rfl
theorem txa : Statement (.txa) := rfl
theorem tya : Statement (.tya) := rfl
theorem tsx : Statement (.tsx) := rfl
theorem txs : Statement (.txs) := rfl
theorem pha : Statement (.pha) := rfl
theorem php : Statement (.php) := rfl
theorem pla : Statement (.pla) := rfl
theorem plp : Statement (.plp) := rfl
theorem andImm (imm : Byte) : Statement (.andImm imm) := rfl
theorem andZp (zp : Byte) : Statement (.andZp zp) := rfl
theorem andZpx (zp : Byte) : Statement (.andZpx zp) := rfl
theorem andAbs (addr : Addr) : Statement (.andAbs addr) := rfl
theorem andAbx (addr : Addr) : Statement (.andAbx addr) := rfl
theorem andAby (addr : Addr) : Statement (.andAby addr) := rfl
theorem andIzx (zp : Byte) : Statement (.andIzx zp) := rfl
theorem andIzy (zp : Byte) : Statement (.andIzy zp) := rfl
theorem oraImm (imm : Byte) : Statement (.oraImm imm) := rfl
theorem oraZp (zp : Byte) : Statement (.oraZp zp) := rfl
theorem oraZpx (zp : Byte) : Statement (.oraZpx zp) := rfl
theorem oraAbs (addr : Addr) : Statement (.oraAbs addr) := rfl
theorem oraAbx (addr : Addr) : Statement (.oraAbx addr) := rfl
theorem oraAby (addr : Addr) : Statement (.oraAby addr) := rfl
theorem oraIzx (zp : Byte) : Statement (.oraIzx zp) := rfl
theorem oraIzy (zp : Byte) : Statement (.oraIzy zp) := rfl
theorem eorImm (imm : Byte) : Statement (.eorImm imm) := rfl
theorem eorZp (zp : Byte) : Statement (.eorZp zp) := rfl
theorem eorZpx (zp : Byte) : Statement (.eorZpx zp) := rfl
theorem eorAbs (addr : Addr) : Statement (.eorAbs addr) := rfl
theorem eorAbx (addr : Addr) : Statement (.eorAbx addr) := rfl
theorem eorAby (addr : Addr) : Statement (.eorAby addr) := rfl
theorem eorIzx (zp : Byte) : Statement (.eorIzx zp) := rfl
theorem eorIzy (zp : Byte) : Statement (.eorIzy zp) := rfl
theorem bitZp (zp : Byte) : Statement (.bitZp zp) := rfl
theorem bitAbs (addr : Addr) : Statement (.bitAbs addr) := rfl
theorem adcImm (imm : Byte) : Statement (.adcImm imm) := rfl
theorem adcZp (zp : Byte) : Statement (.adcZp zp) := rfl
theorem adcZpx (zp : Byte) : Statement (.adcZpx zp) := rfl
theorem adcAbs (addr : Addr) : Statement (.adcAbs addr) := rfl
theorem adcAbx (addr : Addr) : Statement (.adcAbx addr) := rfl
theorem adcAby (addr : Addr) : Statement (.adcAby addr) := rfl
theorem adcIzx (zp : Byte) : Statement (.adcIzx zp) := rfl
theorem adcIzy (zp : Byte) : Statement (.adcIzy zp) := rfl
theorem sbcImm (imm : Byte) : Statement (.sbcImm imm) := rfl
theorem sbcZp (zp : Byte) : Statement (.sbcZp zp) := rfl
theorem sbcZpx (zp : Byte) : Statement (.sbcZpx zp) := rfl
theorem sbcAbs (addr : Addr) : Statement (.sbcAbs addr) := rfl
theorem sbcAbx (addr : Addr) : Statement (.sbcAbx addr) := rfl
theorem sbcAby (addr : Addr) : Statement (.sbcAby addr) := rfl
theorem sbcIzx (zp : Byte) : Statement (.sbcIzx zp) := rfl
theorem sbcIzy (zp : Byte) : Statement (.sbcIzy zp) := rfl
theorem cmpImm (imm : Byte) : Statement (.cmpImm imm) := rfl
theorem cmpZp (zp : Byte) : Statement (.cmpZp zp) := rfl
theorem cmpZpx (zp : Byte) : Statement (.cmpZpx zp) := rfl
theorem cmpAbs (addr : Addr) : Statement (.cmpAbs addr) := rfl
theorem cmpAbx (addr : Addr) : Statement (.cmpAbx addr) := rfl
theorem cmpAby (addr : Addr) : Statement (.cmpAby addr) := rfl
theorem cmpIzx (zp : Byte) : Statement (.cmpIzx zp) := rfl
theorem cmpIzy (zp : Byte) : Statement (.cmpIzy zp) := rfl
theorem cpxImm (imm : Byte) : Statement (.cpxImm imm) := rfl
theorem cpxZp (zp : Byte) : Statement (.cpxZp zp) := rfl
theorem cpxAbs (addr : Addr) : Statement (.cpxAbs addr) := rfl
theorem cpyImm (imm : Byte) : Statement (.cpyImm imm) := rfl
theorem cpyZp (zp : Byte) : Statement (.cpyZp zp) := rfl
theorem cpyAbs (addr : Addr) : Statement (.cpyAbs addr) := rfl
theorem incZp (zp : Byte) : Statement (.incZp zp) := rfl
theorem incZpx (zp : Byte) : Statement (.incZpx zp) := rfl
theorem incAbs (addr : Addr) : Statement (.incAbs addr) := rfl
theorem incAbx (addr : Addr) : Statement (.incAbx addr) := rfl
theorem decZp (zp : Byte) : Statement (.decZp zp) := rfl
theorem decZpx (zp : Byte) : Statement (.decZpx zp) := rfl
theorem decAbs (addr : Addr) : Statement (.decAbs addr) := rfl
theorem decAbx (addr : Addr) : Statement (.decAbx addr) := rfl
theorem inx : Statement (.inx) := rfl
theorem iny : Statement (.iny) := rfl
theorem dex : Statement (.dex) := rfl
theorem dey : Statement (.dey) := rfl
theorem aslAcc : Statement (.aslAcc) := rfl
theorem aslZp (zp : Byte) : Statement (.aslZp zp) := rfl
theorem aslZpx (zp : Byte) : Statement (.aslZpx zp) := rfl
theorem aslAbs (addr : Addr) : Statement (.aslAbs addr) := rfl
theorem aslAbx (addr : Addr) : Statement (.aslAbx addr) := rfl
theorem lsrAcc : Statement (.lsrAcc) := rfl
theorem lsrZp (zp : Byte) : Statement (.lsrZp zp) := rfl
theorem lsrZpx (zp : Byte) : Statement (.lsrZpx zp) := rfl
theorem lsrAbs (addr : Addr) : Statement (.lsrAbs addr) := rfl
theorem lsrAbx (addr : Addr) : Statement (.lsrAbx addr) := rfl
theorem rolAcc : Statement (.rolAcc) := rfl
theorem rolZp (zp : Byte) : Statement (.rolZp zp) := rfl
theorem rolZpx (zp : Byte) : Statement (.rolZpx zp) := rfl
theorem rolAbs (addr : Addr) : Statement (.rolAbs addr) := rfl
theorem rolAbx (addr : Addr) : Statement (.rolAbx addr) := rfl
theorem rorAcc : Statement (.rorAcc) := rfl
theorem rorZp (zp : Byte) : Statement (.rorZp zp) := rfl
theorem rorZpx (zp : Byte) : Statement (.rorZpx zp) := rfl
theorem rorAbs (addr : Addr) : Statement (.rorAbs addr) := rfl
theorem rorAbx (addr : Addr) : Statement (.rorAbx addr) := rfl
theorem jmpAbs (addr : Addr) : Statement (.jmpAbs addr) := rfl
theorem jmpInd (ptr : Addr) : Statement (.jmpInd ptr) := rfl
theorem jsr (addr : Addr) : Statement (.jsr addr) := rfl
theorem rts : Statement (.rts) := rfl
theorem bcc (rel : Byte) : Statement (.bcc rel) := rfl
theorem bcs (rel : Byte) : Statement (.bcs rel) := rfl
theorem beq (rel : Byte) : Statement (.beq rel) := rfl
theorem bne (rel : Byte) : Statement (.bne rel) := rfl
theorem bmi (rel : Byte) : Statement (.bmi rel) := rfl
theorem bpl (rel : Byte) : Statement (.bpl rel) := rfl
theorem bvc (rel : Byte) : Statement (.bvc rel) := rfl
theorem bvs (rel : Byte) : Statement (.bvs rel) := rfl
theorem clc : Statement (.clc) := rfl
theorem sec : Statement (.sec) := rfl
theorem cli : Statement (.cli) := rfl
theorem sei : Statement (.sei) := rfl
theorem cld : Statement (.cld) := rfl
theorem sed : Statement (.sed) := rfl
theorem clv : Statement (.clv) := rfl
theorem brk : Statement (.brk) := rfl
theorem nop : Statement (.nop) := rfl
theorem rti : Statement (.rti) := rfl
theorem und (opcode : Byte) : Statement (.und opcode) := rfl

end Sys2Proof.Laws.EncodedLength
end

