-- ==== Sys2Proof/Laws/Step.lean ====
section
/-! SUPPORT. What a step consists of. -/

namespace Sys2Proof.Machine

/-- A machine that runs takes a global tick (52_clock_dma.md R340). -/
theorem step_running {s : State} (h : s.Running) : step s = globalTick s := by
  unfold step
  rw [h]

/-- A step that answers a next state: the machine was running, and the CPU's share of the tick answered a next state,
which the audio tick follows (52_clock_dma.md R340). -/
theorem step_cases {s t : State} (h : step s = .next t) :
    s.Running ∧ ∃ u, cpuStage (ppuStage s) = .next u ∧ t = audioStage u := by
  unfold step at h
  split at h
  · cases h
  · rename_i hf
    refine ⟨hf, ?_⟩
    unfold globalTick at h
    split at h
    · rename_i u hu
      injection h with h
      exact ⟨u, hu, h.symm⟩
    · cases h
    · cases h

/-- A CPU tick while DMA is active (52_clock_dma.md R345). -/
theorem cpuTick_dma {s : State} (h : s.dma.active = true) : cpuTick s = .next (dmaStep s) := by
  unfold cpuTick
  rw [h]
  rfl

/-- A CPU tick whose countdown goes on (52_clock_dma.md R345). -/
theorem cpuTick_count {s : State} (h : s.dma.active = false) (hc : 1 < s.cpu.cyc) :
    cpuTick s = .next (s.charge (s.cpu.cyc - 1)) := by
  unfold cpuTick
  rw [h]
  simp only [Bool.false_eq_true, if_false]
  exact if_neg (show ¬ s.cpu.cyc - 1 = 0 by omega)

/-- A CPU tick whose countdown ends executes an instruction (52_clock_dma.md R345). -/
theorem cpuTick_execute {s : State} (h : s.dma.active = false) (hc : s.cpu.cyc ≤ 1) :
    cpuTick s = executeInstruction (s.charge 0) := by
  unfold cpuTick
  rw [h, show s.cpu.cyc - 1 = 0 by omega]
  rfl

/-- The audio tick adds an event at most (52_clock_dma.md R352). -/
theorem audioStage_frame (s : State) :
    (audioStage s).cpu = s.cpu ∧ (audioStage s).fatal = s.fatal ∧ (audioStage s).ram = s.ram ∧
    (audioStage s).ppu = s.ppu ∧ (audioStage s).dma = s.dma ∧ (audioStage s).g = s.g ∧
    (audioStage s).fixed = s.fixed ∧ (audioStage s).joypadReads = s.joypadReads := by
  unfold audioStage
  split <;> exact ⟨rfl, rfl, rfl, rfl, rfl, rfl, rfl, rfl⟩

end Sys2Proof.Machine
end

