-- ==== Sys2Proof/Laws/UndefinedOp.lean ====
section
/-! SUPPORT. What resolving a mode and operating on a resolved operand can do, so what the table entry of an undefined
opcode can do. -/

namespace Sys2Proof.Machine

/-! The fetch of an instruction -/

/-- A property of states that fetching a byte keeps holds after the operand bytes of a row. -/
theorem fetchOperands_keeps {P : State → Prop} (hP : ∀ s, P s → P (fetchByte s).2) (e : Format) {s : State} (h : P s) :
    P (fetchOperands e s).2 := by
  cases e with
  | f1 i => exact h
  | f2 mk => exact hP s h
  | f3 mk => exact hP _ (hP s h)

/-- A property of states that fetching a byte keeps holds after the fetch of an instruction. -/
theorem fetchInstr_keeps {P : State → Prop} (hP : ∀ s, P s → P (fetchByte s).2) {s : State} (h : P s) :
    P (fetchInstr s).2 :=
  fetchOperands_keeps hP _ (hP s h)

/-! Resolution -/

/-- A property of states that reads and loading `pc` keep is kept by resolving a mode (40_addressing.md R120: "writes no
register but `pc` and no memory"). -/
theorem resolveMode_keeps {P : State → Prop} (hr : ∀ a s, P s → P (memRead a s).2)
    (hc : ∀ pc s, P s → P (s.setCpu (s.cpu.setPc pc))) (mode : Mode) {s : State} (h : P s) :
    P (resolveMode mode s).2 := by
  have hf : ∀ s, P s → P (fetchByte s).2 := fun s h => hc _ _ (hr _ _ h)
  cases mode
  case imp => exact h
  case acc => exact h
  case imm => exact hc _ _ h
  case ind => exact hr _ _ (hr _ _ (hf _ (hf _ h)))
  all_goals first
    | exact hf _ h
    | exact hf _ (hf _ h)

/-- Resolution touches nothing but `pc`, the PPU's registers and the joypad oracle's index (40_addressing.md R120). -/
theorem resolveMode_frame (mode : Mode) (s : State) :
    (∃ pc, (resolveMode mode s).2.cpu = s.cpu.setPc pc) ∧ (resolveMode mode s).2.fatal = s.fatal ∧
    (resolveMode mode s).2.ram = s.ram ∧ (resolveMode mode s).2.dma = s.dma ∧ (resolveMode mode s).2.g = s.g ∧
    (resolveMode mode s).2.fixed = s.fixed ∧ (resolveMode mode s).2.trace = s.trace := by
  refine resolveMode_keeps (P := fun t => (∃ pc, t.cpu = s.cpu.setPc pc) ∧ t.fatal = s.fatal ∧ t.ram = s.ram ∧
    t.dma = s.dma ∧ t.g = s.g ∧ t.fixed = s.fixed ∧ t.trace = s.trace) (fun a t h => ?_) (fun pc t h => ?_) mode
    ⟨⟨s.cpu.pc, rfl⟩, rfl, rfl, rfl, rfl, rfl, rfl⟩
  · simpa only [memRead_cpu, memRead_fatal, memRead_ramKept, memRead_dma, memRead_g, memRead_fixed, memRead_trace] using h
  · obtain ⟨⟨q, hq⟩, h⟩ := h
    exact ⟨⟨pc, by rw [State.setCpu_cpu, hq]; rfl⟩, h⟩

/-! Operating on a resolved operand -/

/-- A read operation on any operand. -/
theorem operate_read {op : Operation} {f : Byte → Cpu → Cpu} (hf : readEffect op = some f) (r : Resolution) (base : Nat)
    (s : State) : operate op r base s = readAt r base f s := by
  cases op <;> first
    | (cases hf; done)
    | (cases hf; rfl)

/-- A store to any operand. -/
theorem operate_store {op : Operation} {s : State} {v : Byte} (hv : storeValue op s.cpu = some v) (r : Resolution)
    (base : Nat) : operate op r base s = storeAt r base v s := by
  cases op <;> first
    | (cases hv; done)
    | (cases hv; rfl)

/-- What a read-modify-write operation does to the CPU before its write, and the byte it writes. -/
def modifyEffect : Operation → Option ((Byte → Cpu → Cpu) × (Byte → Cpu → Byte))
  | .inc => some (fun _ c => c, fun b _ => b + 1)
  | .dec => some (fun _ c => c, fun b _ => b - 1)
  | op => (shiftOf op).map fun f =>
    (fun b c => c.setFlag .c (f (c.flag .c) b).carry, fun b c => (f (c.flag .c) b).value)

/-- A read-modify-write on any operand. -/
theorem operate_modify {op : Operation} {f : (Byte → Cpu → Cpu) × (Byte → Cpu → Byte)} (hf : modifyEffect op = some f)
    (r : Resolution) (base : Nat) (s : State) : operate op r base s = modifyAt r base f.1 f.2 s := by
  cases op <;> first
    | (cases hf; done)
    | (cases hf; rfl)

/-- A branch to the effective address. -/
theorem operate_branch {op : Operation} {f : Flag} {value : Bool} (h : branchTest op = some (f, value)) (r : Resolution)
    (base : Nat) (s : State) : operate op r base s = branchTo (s.cpu.flag f == value) base r.ea s := by
  cases op <;> first
    | (cases h; done)
    | (cases h; simp [operate, performBcc, performBcs, performBeq, performBne, performBmi, performBpl, performBvc,
        performBvs])

/-- The same state with two costs. -/
theorem charge_twice (u : State) (n m : Nat) :
    ∃ t, (.next (u.charge n) : Result) = .next t ∧ (.next (u.charge m) : Result) = .next (t.charge m) :=
  ⟨_, rfl, rfl⟩

/-- An operation without operand is its implied form with another cost, whatever was resolved. -/
theorem operate_implied {j : Instr} (hj : j.mode = .imp) (hu : j.operation ≠ .und) (r : Resolution) (base : Nat)
    (s : State) : ∃ t, exec j s = .next t ∧ operate j.operation r base s = .next (t.charge base) := by
  cases j <;> first
    | exact absurd rfl hu
    | (cases hj; done)
    | exact charge_twice _ _ _

/-- A write with a cost: the same write with another cost differs in `cyc` alone, or in nothing where it raises the fatal
condition. -/
theorem writeThen_charge {a : Addr} {v : Byte} {s : State} (h : s.Running) (f : State → State)
    (hf : ∀ t, (f t).fatal = t.fatal) (n m : Nat) :
    ∃ t, writeThen a v s (fun u => (f u).charge n) = .next t ∧
      writeThen a v s (fun u => (f u).charge m) = .next (t.costing m) := by
  unfold writeThen
  cases hw : memWrite a v s with
  | none => exact ⟨_, rfl, rfl⟩
  | some t =>
    refine ⟨_, rfl, ?_⟩
    have ht : ((f t).charge n).fatal = none := (hf t).trans ((memWrite_frame hw).2.1.trans h)
    rw [State.costing, if_pos ht]
    rfl

/-- An operation on an operand in memory is any form of it that resolves to the same effective address, with another
cost. -/
theorem operate_mem {j : Instr} {m : MemOperand} {s : State} (hs : s.Running) {r : Resolution} (ht : r.tag = .mem)
    (he : r.ea = (resolve m s).ea) (hj : j.operand = .src (.mem m)) (base : Nat) :
    ∃ t, exec j s = .next t ∧ operate j.operation r base s = .next (t.costing base) := by
  obtain ⟨ea, crossed, tag⟩ := r
  dsimp only at ht he
  subst ht he
  have read : ∀ f, readEffect j.operation = some f →
      ∃ t, exec j s = .next t ∧ operate j.operation ⟨(resolve m s).ea, crossed, .mem⟩ base s = .next (t.costing base) := by
    intro f hf
    rw [exec_read_eq hf hj, operate_read hf]
    refine ⟨_, rfl, ?_⟩
    have h : (fetchOperand (.mem m) s).2.fatal = none := (fetchOperand_frame _ s).2.1.trans hs
    rw [State.costing, if_pos (by exact h)]
    simp only [readAt, operandByte, State.mapCpu, memRead_cpu]
    rfl
  have modify : ∀ before result n,
      ∃ t, modifyInstr m n before result s = .next t ∧
        modifyAt ⟨(resolve m s).ea, crossed, .mem⟩ base before result s = .next (t.costing base) :=
    fun before result n =>
      let b := memRead (resolve m s).ea s
      writeThen_charge (s := b.2.mapCpu (before b.1)) ((memRead_fatal _ s).trans hs)
        (fun t => t.mapCpu (·.setZN (result b.1 b.2.cpu))) (fun _ => rfl) n base
  cases j <;> first
    | (cases hj; done)
    | exact read _ rfl
    | (cases hj; exact writeThen_charge hs id (fun _ => rfl) _ base)
    | (cases hj; rw [exec_inc rfl rfl]; exact modify _ _ _)
    | (cases hj; rw [exec_dec rfl rfl]; exact modify _ _ _)
    | (cases hj; rw [exec_shiftMem rfl rfl]; exact modify _ _ _)
    | (cases hj; exact ⟨_, rfl, by rw [State.costing, if_pos (by exact hs)]; rfl⟩)

/-- An operation on any operand always leaves a next state. -/
theorem operate_next (op : Operation) (r : Resolution) (base : Nat) (s : State) :
    ∃ t, operate op r base s = .next t := by
  have back : ∀ v u rest, ∃ t, writeBack r v u rest = .next t := by
    intro v u rest
    unfold writeBack
    split
    · exact ⟨_, rfl⟩
    · exact writeThen_next _ _ _ _
    · exact writeThen_next _ _ _ _
  have modify : ∀ before result, ∃ t, modifyAt r base before result s = .next t := by
    intro before result
    unfold modifyAt
    exact back _ _ _
  cases op <;> first
    | exact ⟨_, operate_read rfl r base s⟩
    | exact ⟨_, (operate_branch rfl r base s).trans (branchTo_next _ _ _ _)⟩
    | (rw [operate_store rfl]; exact back _ _ _)
    | (rw [operate_modify rfl]; exact modify _ _)
    | exact ⟨_, rfl⟩

/-- The cycles a branch adds when it is taken to an effective address (47_jump_branch.md R209). -/
def branchExtra (op : Operation) (ea : Addr) (c : Cpu) : Nat :=
  match branchTest op with
  | some (f, value) => if c.flag f = value then (if hiByte ea = hiByte c.pc then 1 else 2) else 0
  | none => 0

/-- A write that left a machine running was followed by the rest of the instruction. -/
theorem writeThen_running {a : Addr} {v : Byte} {s t : State} {rest : State → State}
    (h : writeThen a v s rest = .next t) (ht : t.Running) : ∃ u, t = rest u := by
  unfold writeThen at h
  split at h
  · injection h with h
    exact ⟨_, h.symm⟩
  · injection h with h
    subst h
    cases ht

/-- An operation on any operand that does not raise the fatal condition loads `cyc` with its cost
(40_addressing.md R139). -/
theorem operate_cyc {op : Operation} {r : Resolution} {base : Nat} {s t : State} (h : operate op r base s = .next t)
    (ht : t.Running) : t.cpu.cyc = base + branchExtra op r.ea s.cpu := by
  have back : ∀ v u (f : State → State), writeBack r v u (fun w => (f w).charge base) = .next t → t.cpu.cyc = base := by
    intro v u f hw
    unfold writeBack at hw
    split at hw
    · injection hw with hw
      subst hw
      rfl
    all_goals
      obtain ⟨w, rfl⟩ := writeThen_running hw ht
      rfl
  have modify : ∀ before result, modifyAt r base before result s = .next t → t.cpu.cyc = base := by
    intro before result hw
    unfold modifyAt at hw
    exact back _ _ _ hw
  have branch : ∀ f value, branchTest op = some (f, value) → t.cpu.cyc = base + branchExtra op r.ea s.cpu := by
    intro f value hb
    rw [operate_branch hb, branchTo_next] at h
    injection h with h
    subst h
    simp only [branchExtra, hb, beq_iff_eq]
    split
    · simp only [ne_eq, ite_not]
      split <;> rfl
    · rfl
  cases op <;> first
    | exact branch _ _ rfl
    | (rw [operate_read rfl] at h; injection h with h; subst h; rfl)
    | (rw [operate_store rfl] at h; exact back _ _ id h)
    | (rw [operate_modify rfl] at h; exact modify _ _ h)
    | (injection h with h; subst h; rfl)

/-- An undefined opcode always leaves a next state. -/
theorem execUnd_next (op : Byte) (s : State) : ∃ t, exec (.und op) s = .next t := operate_next _ _ _ _

end Sys2Proof.Machine
end

