-- ==== Sys2Proof/Tests/Slice0.lean ====
section
/-! SUPPORT. Tests, and a witness for every statement with hypotheses.
Every expected result comes from the tables of the spec: opcode bytes from 30_encoding.md R114, results from
95_test_vectors.md (rows V, X, G, H, K, examples E), 50_ppu_registers.md R271 and 51_ppu_rendering.md R330. -/

namespace Sys2Proof.Tests

open Sys2Proof Sys2Proof.Machine

/-! Well-formedness: the one check, and a term it refuses. -/

/-- $A9 is the opcode of a defined row, so `und 0xA9` stands for no instruction (30_encoding.md R109, R110). -/
theorem test_wellformed_refuses_defined_opcode : ¬(Instr.und 0xA9).WellFormed := by decide

theorem test_wellformed_accepts_undefined_opcode : (Instr.und 0xA7).WellFormed := by decide

theorem test_wellformed_accepts_any_operand : (Instr.ldaImm 0xFF).WellFormed ∧ (Instr.jmpInd 0xFFFF).WellFormed := by
  decide

/-- 151 defined and 105 undefined opcode bytes (30_encoding.md R109, R110). -/
theorem test_undefined_opcodes_count : undefinedOpcodes.length = 105 ∧ undefinedOpcodes.Nodup := by decide

/-! Decoding: for every constructor the opcode byte in binary, bit by bit from the table of 30_encoding.md R114, followed
by the operand bytes $34, $12 (R101, R103). -/

/-- The words decode to their instructions: each opcode byte has the operand bytes $34 and $12 behind it. -/
def wordsDecode (rows : List (Nat × Instr)) : Bool :=
  rows.all fun r => decide (decodeTableWord 24 (r.1 + 0x34 * 2 ^ 8 + 0x12 * 2 ^ 16) = some r.2)

theorem test_decode_load_store_1 : wordsDecode [
    (0b10101001, .ldaImm 0x34), (0b10100101, .ldaZp 0x34), (0b10110101, .ldaZpx 0x34), (0b10101101, .ldaAbs 0x1234),
    (0b10111101, .ldaAbx 0x1234), (0b10111001, .ldaAby 0x1234), (0b10100001, .ldaIzx 0x34),
    (0b10110001, .ldaIzy 0x34), (0b10100010, .ldxImm 0x34), (0b10100110, .ldxZp 0x34), (0b10110110, .ldxZpy 0x34),
    (0b10101110, .ldxAbs 0x1234)] = true := by decide

theorem test_decode_load_store_2 : wordsDecode [
    (0b10111110, .ldxAby 0x1234), (0b10100000, .ldyImm 0x34), (0b10100100, .ldyZp 0x34), (0b10110100, .ldyZpx 0x34),
    (0b10101100, .ldyAbs 0x1234), (0b10111100, .ldyAbx 0x1234), (0b10000101, .staZp 0x34), (0b10010101, .staZpx 0x34),
    (0b10001101, .staAbs 0x1234), (0b10011101, .staAbx 0x1234), (0b10011001, .staAby 0x1234),
    (0b10000001, .staIzx 0x34)] = true := by decide

theorem test_decode_load_store_3 : wordsDecode [
    (0b10010001, .staIzy 0x34), (0b10000110, .stxZp 0x34), (0b10010110, .stxZpy 0x34), (0b10001110, .stxAbs 0x1234),
    (0b10000100, .styZp 0x34), (0b10010100, .styZpx 0x34), (0b10001100, .styAbs 0x1234)] = true := by decide

theorem test_decode_transfer_stack : wordsDecode [
    (0b10101010, .tax), (0b10101000, .tay), (0b10001010, .txa), (0b10011000, .tya), (0b10111010, .tsx),
    (0b10011010, .txs), (0b01001000, .pha), (0b00001000, .php), (0b01101000, .pla),
    (0b00101000, .plp)] = true := by decide

theorem test_decode_logical_1 : wordsDecode [
    (0b00101001, .andImm 0x34), (0b00100101, .andZp 0x34), (0b00110101, .andZpx 0x34), (0b00101101, .andAbs 0x1234),
    (0b00111101, .andAbx 0x1234), (0b00111001, .andAby 0x1234), (0b00100001, .andIzx 0x34),
    (0b00110001, .andIzy 0x34), (0b00001001, .oraImm 0x34), (0b00000101, .oraZp 0x34), (0b00010101, .oraZpx 0x34),
    (0b00001101, .oraAbs 0x1234)] = true := by decide

theorem test_decode_logical_2 : wordsDecode [
    (0b00011101, .oraAbx 0x1234), (0b00011001, .oraAby 0x1234), (0b00000001, .oraIzx 0x34),
    (0b00010001, .oraIzy 0x34), (0b01001001, .eorImm 0x34), (0b01000101, .eorZp 0x34), (0b01010101, .eorZpx 0x34),
    (0b01001101, .eorAbs 0x1234), (0b01011101, .eorAbx 0x1234), (0b01011001, .eorAby 0x1234),
    (0b01000001, .eorIzx 0x34), (0b01010001, .eorIzy 0x34)] = true := by decide

theorem test_decode_logical_3 : wordsDecode [
    (0b00100100, .bitZp 0x34), (0b00101100, .bitAbs 0x1234)] = true := by decide

theorem test_decode_arithmetic_1 : wordsDecode [
    (0b01101001, .adcImm 0x34), (0b01100101, .adcZp 0x34), (0b01110101, .adcZpx 0x34), (0b01101101, .adcAbs 0x1234),
    (0b01111101, .adcAbx 0x1234), (0b01111001, .adcAby 0x1234), (0b01100001, .adcIzx 0x34),
    (0b01110001, .adcIzy 0x34), (0b11101001, .sbcImm 0x34), (0b11100101, .sbcZp 0x34), (0b11110101, .sbcZpx 0x34),
    (0b11101101, .sbcAbs 0x1234)] = true := by decide

theorem test_decode_arithmetic_2 : wordsDecode [
    (0b11111101, .sbcAbx 0x1234), (0b11111001, .sbcAby 0x1234), (0b11100001, .sbcIzx 0x34),
    (0b11110001, .sbcIzy 0x34), (0b11001001, .cmpImm 0x34), (0b11000101, .cmpZp 0x34), (0b11010101, .cmpZpx 0x34),
    (0b11001101, .cmpAbs 0x1234), (0b11011101, .cmpAbx 0x1234), (0b11011001, .cmpAby 0x1234),
    (0b11000001, .cmpIzx 0x34), (0b11010001, .cmpIzy 0x34)] = true := by decide

theorem test_decode_arithmetic_3 : wordsDecode [
    (0b11100000, .cpxImm 0x34), (0b11100100, .cpxZp 0x34), (0b11101100, .cpxAbs 0x1234), (0b11000000, .cpyImm 0x34),
    (0b11000100, .cpyZp 0x34), (0b11001100, .cpyAbs 0x1234)] = true := by decide

theorem test_decode_incdec : wordsDecode [
    (0b11100110, .incZp 0x34), (0b11110110, .incZpx 0x34), (0b11101110, .incAbs 0x1234), (0b11111110, .incAbx 0x1234),
    (0b11000110, .decZp 0x34), (0b11010110, .decZpx 0x34), (0b11001110, .decAbs 0x1234), (0b11011110, .decAbx 0x1234),
    (0b11101000, .inx), (0b11001000, .iny), (0b11001010, .dex), (0b10001000, .dey)] = true := by decide

theorem test_decode_shift_rotate_1 : wordsDecode [
    (0b00001010, .aslAcc), (0b00000110, .aslZp 0x34), (0b00010110, .aslZpx 0x34), (0b00001110, .aslAbs 0x1234),
    (0b00011110, .aslAbx 0x1234), (0b01001010, .lsrAcc), (0b01000110, .lsrZp 0x34), (0b01010110, .lsrZpx 0x34),
    (0b01001110, .lsrAbs 0x1234), (0b01011110, .lsrAbx 0x1234), (0b00101010, .rolAcc),
    (0b00100110, .rolZp 0x34)] = true := by decide

theorem test_decode_shift_rotate_2 : wordsDecode [
    (0b00110110, .rolZpx 0x34), (0b00101110, .rolAbs 0x1234), (0b00111110, .rolAbx 0x1234), (0b01101010, .rorAcc),
    (0b01100110, .rorZp 0x34), (0b01110110, .rorZpx 0x34), (0b01101110, .rorAbs 0x1234),
    (0b01111110, .rorAbx 0x1234)] = true := by decide

theorem test_decode_jump_branch : wordsDecode [
    (0b01001100, .jmpAbs 0x1234), (0b01101100, .jmpInd 0x1234), (0b00100000, .jsr 0x1234), (0b01100000, .rts),
    (0b10010000, .bcc 0x34), (0b10110000, .bcs 0x34), (0b11110000, .beq 0x34), (0b11010000, .bne 0x34),
    (0b00110000, .bmi 0x34), (0b00010000, .bpl 0x34), (0b01010000, .bvc 0x34),
    (0b01110000, .bvs 0x34)] = true := by decide

theorem test_decode_flags : wordsDecode [
    (0b00011000, .clc), (0b00111000, .sec), (0b01011000, .cli), (0b01111000, .sei), (0b11011000, .cld),
    (0b11111000, .sed), (0b10111000, .clv)] = true := by decide

theorem test_decode_system : wordsDecode [
    (0b00000000, .brk), (0b11101010, .nop), (0b01000000, .rti)] = true := by decide

/-- Every undefined opcode byte decodes to itself (30_encoding.md R110). -/
theorem test_decode_undefined :
    undefinedOpcodes.all (fun op => decide (decodeTableWord 8 op.toNat = some (.und op))) = true := by decide

/-! The vectors of 95_test_vectors.md, sections 2.1 to 2.10: one step of the machine for each. -/

/-- The CPU of the vectors' default start (spec/95_test_vectors.md, "Conventions"), one count before an instruction. -/
def cpu0 : Cpu := { Cpu.reset with pc := 0x8000, cyc := 1 }

/-- Bytes placed at consecutive addresses. -/
def placeBytes : Addr → List Byte → State → State
  | _, [], s => s
  | a, b :: bytes, s => placeBytes (a + 1) bytes (placeByte a b s)

/-- Listed cells placed. -/
def placeCells (cells : List (Addr × Byte)) (s : State) : State :=
  cells.foldl (fun s c => placeByte c.1 c.2 s) s

/-- A state with the given parameters. -/
def withParams (params : Params) (s : State) : State := s.setFixed { s.fixed with params := params }

/-- A small state whose next step runs the instruction bytes at `pc`: the third global tick, no DMA. -/
def small (bytes : List Byte) (c : Cpu) (cells : List (Addr × Byte)) : State :=
  placeBytes c.pc bytes (placeCells cells { State.reset with cpu := c, g := 2 })

/-- What a vector expects after the step. -/
inductive Expected where
  /-- The CPU with the cost, and the bytes some addresses read as. -/
  | runs (cpu : Cpu) (cost : Nat) (cells : List (Addr × Byte))
  /-- The fatal condition with its address and byte, `cyc` not loaded. -/
  | stops (addr : Addr) (value : Byte)

/-- A vector of 95_test_vectors.md: instruction bytes, CPU and cells at the start, and what is expected. -/
structure StepVector where
  bytes : List Byte
  cpu : Cpu
  cells : List (Addr × Byte)
  expected : Expected

/-- The step gives what the vector expects. -/
def StepVector.holds (v : StepVector) : Bool :=
  match step (small v.bytes v.cpu v.cells), v.expected with
  | .next t, .runs c cost cells =>
    decide (t.cpu = { c with cyc := cost }) && decide (t.fatal = none) &&
      cells.all fun x => decide (byteAt t x.1 = x.2)
  | .next t, .stops a b => decide (t.fatal = some { addr := a, value := b }) && decide (t.cpu.cyc = 0)
  | _, _ => false

/-- Every vector holds. -/
def allHold (l : List StepVector) : Bool := l.all StepVector.holds

/-- V1, V2, V3, V4. -/
theorem test_modes_1 : allHold [
    ⟨[0xA9, 0x0A], cpu0, [],
      .runs { cpu0 with a := 0x0A, p := 0x24, pc := 0x8002 } 2 []⟩,
    ⟨[0xA5, 0x10], cpu0, [(0x0010, 0x80)],
      .runs { cpu0 with a := 0x80, p := 0xA4, pc := 0x8002 } 3 []⟩,
    ⟨[0xB5, 0xF0], { cpu0 with x := 0x20 }, [(0x0010, 0x55), (0x0110, 0xAA)],
      .runs { cpu0 with x := 0x20, a := 0x55, p := 0x24, pc := 0x8002 } 4 []⟩,
    ⟨[0xB6, 0xFF], { cpu0 with y := 0x02 }, [(0x0001, 0x77), (0x0101, 0xAA)],
      .runs { cpu0 with y := 0x02, x := 0x77, p := 0x24, pc := 0x8002 } 4 []⟩] = true := by decide

/-- V5, V6, V7, V8. -/
theorem test_modes_2 : allHold [
    ⟨[0xAD, 0x34, 0x12], cpu0, [(0x0234, 0x42)],
      .runs { cpu0 with a := 0x42, p := 0x24, pc := 0x8003 } 4 []⟩,
    ⟨[0xAD, 0x00, 0x08], cpu0, [(0x0000, 0x99)],
      .runs { cpu0 with a := 0x99, p := 0xA4, pc := 0x8003 } 4 []⟩,
    ⟨[0xBD, 0xF0, 0x02], { cpu0 with x := 0x0F }, [(0x02FF, 0x11)],
      .runs { cpu0 with x := 0x0F, a := 0x11, p := 0x24, pc := 0x8003 } 4 []⟩,
    ⟨[0xBD, 0xF0, 0x02], { cpu0 with x := 0x10 }, [(0x0300, 0x22)],
      .runs { cpu0 with x := 0x10, a := 0x22, p := 0x24, pc := 0x8003 } 5 []⟩] = true := by decide

/-- V9, V10, V11, V12. -/
theorem test_modes_3 : allHold [
    ⟨[0xB9, 0xFF, 0xFF], { cpu0 with y := 0x02 }, [(0x0001, 0x33)],
      .runs { cpu0 with y := 0x02, a := 0x33, p := 0x24, pc := 0x8003 } 5 []⟩,
    ⟨[0xA1, 0xFE], { cpu0 with x := 0x01 }, [(0x0000, 0x02), (0x00FF, 0x34), (0x0100, 0x07), (0x0234, 0x5A)],
      .runs { cpu0 with x := 0x01, a := 0x5A, p := 0x24, pc := 0x8002 } 6 []⟩,
    ⟨[0xB1, 0x20], { cpu0 with y := 0x0F }, [(0x0020, 0xF0), (0x0021, 0x02), (0x02FF, 0x66)],
      .runs { cpu0 with y := 0x0F, a := 0x66, p := 0x24, pc := 0x8002 } 5 []⟩,
    ⟨[0xB1, 0x20], { cpu0 with y := 0x10 }, [(0x0020, 0xF0), (0x0021, 0x02), (0x0300, 0x67)],
      .runs { cpu0 with y := 0x10, a := 0x67, p := 0x24, pc := 0x8002 } 6 []⟩] = true := by decide

/-- V13, V14. -/
theorem test_modes_4 : allHold [
    ⟨[0xB1, 0xFF], { cpu0 with y := 0x01 }, [(0x0000, 0x03), (0x00FF, 0x00), (0x0100, 0x07), (0x0301, 0x68)],
      .runs { cpu0 with y := 0x01, a := 0x68, p := 0x24, pc := 0x8002 } 5 []⟩,
    ⟨[0xA9], { cpu0 with pc := 0xFFFF }, [(0x0000, 0x01)],
      .runs { cpu0 with pc := 0x0001, a := 0x01, p := 0x24 } 2 []⟩] = true := by decide

/-- V15, V24, V25, V26. -/
theorem test_sta_1 : allHold [
    ⟨[0x9D, 0xF0, 0x02], { cpu0 with a := 0x5A, x := 0x10 }, [],
      .runs { cpu0 with a := 0x5A, x := 0x10, p := 0x24, pc := 0x8003 } 5 [(0x0300, 0x5A)]⟩,
    ⟨[0x85, 0x10], { cpu0 with a := 0x00 }, [],
      .runs { cpu0 with a := 0x00, p := 0x24, pc := 0x8002 } 3 [(0x0010, 0x00)]⟩,
    ⟨[0x91, 0x20], { cpu0 with a := 0xC3, y := 0x10 }, [(0x0020, 0xF0), (0x0021, 0x02)],
      .runs { cpu0 with a := 0xC3, y := 0x10, p := 0x24, pc := 0x8002 } 6 [(0x0300, 0xC3)]⟩,
    ⟨[0x81, 0x20], { cpu0 with a := 0xC4, x := 0x04 }, [(0x0024, 0x00), (0x0025, 0x03)],
      .runs { cpu0 with a := 0xC4, x := 0x04, p := 0x24, pc := 0x8002 } 6 [(0x0300, 0xC4)]⟩] = true := by decide

/-- V29, V30, V31, V32. -/
theorem test_sta_2 : allHold [
    ⟨[0x8D, 0xFF, 0x1F], { cpu0 with a := 0x11 }, [],
      .runs { cpu0 with a := 0x11, p := 0x24, pc := 0x8003 } 4 [(0x07FF, 0x11)]⟩,
    ⟨[0x8D, 0x1F, 0x40], { cpu0 with a := 0x11 }, [],
      .runs { cpu0 with a := 0x11, p := 0x24, pc := 0x8003 } 4 []⟩,
    ⟨[0x8D, 0x00, 0x80], { cpu0 with a := 0x11 }, [],
      .stops 0x8000 0x11⟩,
    ⟨[0x8D, 0x20, 0x40], { cpu0 with a := 0x01 }, [],
      .stops 0x4020 0x01⟩] = true := by decide

/-- V16, V17, V18, V19. -/
theorem test_lda : allHold [
    ⟨[0xAD, 0x00, 0x20], { cpu0 with a := 0x55 }, [],
      .runs { cpu0 with a := 0x00, p := 0x26, pc := 0x8003 } 4 []⟩,
    ⟨[0xAD, 0x15, 0x40], { cpu0 with a := 0x55 }, [],
      .runs { cpu0 with a := 0x00, p := 0x26, pc := 0x8003 } 4 []⟩,
    ⟨[0xA9, 0x00], { cpu0 with a := 0x55 }, [],
      .runs { cpu0 with a := 0x00, p := 0x26, pc := 0x8002 } 2 []⟩,
    ⟨[0xA9, 0x80], cpu0, [],
      .runs { cpu0 with a := 0x80, p := 0xA4, pc := 0x8002 } 2 []⟩] = true := by decide

/-- V20, V21. -/
theorem test_ldx : allHold [
    ⟨[0xA2, 0xFF], cpu0, [],
      .runs { cpu0 with x := 0xFF, p := 0xA4, pc := 0x8002 } 2 []⟩,
    ⟨[0xB6, 0x10], { cpu0 with y := 0x04 }, [(0x0014, 0x00)],
      .runs { cpu0 with y := 0x04, p := 0x26, pc := 0x8002 } 4 []⟩] = true := by decide

/-- V22, V23. -/
theorem test_ldy : allHold [
    ⟨[0xA0, 0x7F], cpu0, [],
      .runs { cpu0 with y := 0x7F, p := 0x24, pc := 0x8002 } 2 []⟩,
    ⟨[0xBC, 0xFF, 0x02], { cpu0 with x := 0x01 }, [(0x0300, 0x90)],
      .runs { cpu0 with x := 0x01, y := 0x90, p := 0xA4, pc := 0x8003 } 5 []⟩] = true := by decide

/-- V27. -/
theorem test_stx : allHold [
    ⟨[0x96, 0x10], { cpu0 with x := 0x80, y := 0xF8 }, [],
      .runs { cpu0 with x := 0x80, y := 0xF8, p := 0x24, pc := 0x8002 } 4 [(0x0008, 0x80)]⟩] = true := by decide

/-- V28. -/
theorem test_sty : allHold [
    ⟨[0x8C, 0x00, 0x02], { cpu0 with y := 0x9C }, [],
      .runs { cpu0 with y := 0x9C, p := 0x24, pc := 0x8003 } 4 [(0x0200, 0x9C)]⟩] = true := by decide

/-- V33. -/
theorem test_tax : allHold [
    ⟨[0xAA], { cpu0 with a := 0x00, x := 0x55 }, [],
      .runs { cpu0 with a := 0x00, x := 0x00, p := 0x26, pc := 0x8001 } 2 []⟩] = true := by decide

/-- V34. -/
theorem test_tay : allHold [
    ⟨[0xA8], { cpu0 with a := 0x80 }, [],
      .runs { cpu0 with a := 0x80, y := 0x80, p := 0xA4, pc := 0x8001 } 2 []⟩] = true := by decide

/-- V35. -/
theorem test_txa : allHold [
    ⟨[0x8A], { cpu0 with a := 0x80, x := 0x7F }, [],
      .runs { cpu0 with a := 0x7F, x := 0x7F, p := 0x24, pc := 0x8001 } 2 []⟩] = true := by decide

/-- V36. -/
theorem test_tya : allHold [
    ⟨[0x98], { cpu0 with y := 0xFF }, [],
      .runs { cpu0 with y := 0xFF, a := 0xFF, p := 0xA4, pc := 0x8001 } 2 []⟩] = true := by decide

/-- V37. -/
theorem test_tsx : allHold [
    ⟨[0xBA], cpu0, [],
      .runs { cpu0 with x := 0xFD, p := 0xA4, pc := 0x8001 } 2 []⟩] = true := by decide

/-- V38. -/
theorem test_txs : allHold [
    ⟨[0x9A], { cpu0 with x := 0x00 }, [],
      .runs { cpu0 with x := 0x00, sp := 0x00, p := 0x24, pc := 0x8001 } 2 []⟩] = true := by decide

/-- V39, V40. -/
theorem test_pha : allHold [
    ⟨[0x48], { cpu0 with a := 0x42 }, [],
      .runs { cpu0 with a := 0x42, sp := 0xFC, p := 0x24, pc := 0x8001 } 3 [(0x01FD, 0x42)]⟩,
    ⟨[0x48], { cpu0 with a := 0x42, sp := 0x00 }, [],
      .runs { cpu0 with a := 0x42, sp := 0xFF, p := 0x24, pc := 0x8001 } 3 [(0x0100, 0x42)]⟩] = true := by decide

/-- V41, V42. -/
theorem test_php : allHold [
    ⟨[0x08], { cpu0 with p := 0xE5 }, [],
      .runs { cpu0 with p := 0xE5, sp := 0xFC, pc := 0x8001 } 3 [(0x01FD, 0xF5)]⟩,
    ⟨[0x08], cpu0, [],
      .runs { cpu0 with sp := 0xFC, p := 0x24, pc := 0x8001 } 3 [(0x01FD, 0x34)]⟩] = true := by decide

/-- V43, V44. -/
theorem test_pla : allHold [
    ⟨[0x68], { cpu0 with sp := 0xFC }, [(0x01FD, 0x00)],
      .runs { cpu0 with sp := 0xFD, p := 0x26, pc := 0x8001 } 4 []⟩,
    ⟨[0x68], { cpu0 with sp := 0xFF }, [(0x0100, 0x80), (0x0200, 0x11)],
      .runs { cpu0 with sp := 0x00, a := 0x80, p := 0xA4, pc := 0x8001 } 4 []⟩] = true := by decide

/-- V45, V46. -/
theorem test_plp : allHold [
    ⟨[0x28], { cpu0 with sp := 0xFC }, [(0x01FD, 0xFF)],
      .runs { cpu0 with sp := 0xFD, p := 0xEF, pc := 0x8001 } 4 []⟩,
    ⟨[0x28], { cpu0 with sp := 0xFC }, [(0x01FD, 0x00)],
      .runs { cpu0 with sp := 0xFD, p := 0x20, pc := 0x8001 } 4 []⟩] = true := by decide

/-- V47, V48. -/
theorem test_and : allHold [
    ⟨[0x29, 0x0F], { cpu0 with a := 0xF0 }, [],
      .runs { cpu0 with a := 0x00, p := 0x26, pc := 0x8002 } 2 []⟩,
    ⟨[0x29, 0xF0], { cpu0 with a := 0x9C }, [],
      .runs { cpu0 with a := 0x90, p := 0xA4, pc := 0x8002 } 2 []⟩] = true := by decide

/-- V49, V50. -/
theorem test_ora : allHold [
    ⟨[0x09, 0x80], { cpu0 with a := 0x01 }, [],
      .runs { cpu0 with a := 0x81, p := 0xA4, pc := 0x8002 } 2 []⟩,
    ⟨[0x09, 0x00], { cpu0 with a := 0x00 }, [],
      .runs { cpu0 with a := 0x00, p := 0x26, pc := 0x8002 } 2 []⟩] = true := by decide

/-- V51, V52. -/
theorem test_eor : allHold [
    ⟨[0x49, 0xFF], { cpu0 with a := 0xFF }, [],
      .runs { cpu0 with a := 0x00, p := 0x26, pc := 0x8002 } 2 []⟩,
    ⟨[0x45, 0x10], { cpu0 with a := 0x0F }, [(0x0010, 0xF0)],
      .runs { cpu0 with a := 0xFF, p := 0xA4, pc := 0x8002 } 3 []⟩] = true := by decide

/-- V53, V54, V55. -/
theorem test_bit : allHold [
    ⟨[0x24, 0x10], { cpu0 with a := 0x01 }, [(0x0010, 0xC0)],
      .runs { cpu0 with a := 0x01, p := 0xE6, pc := 0x8002 } 3 []⟩,
    ⟨[0x24, 0x10], { cpu0 with a := 0x01, p := 0xE4 }, [(0x0010, 0x3F)],
      .runs { cpu0 with a := 0x01, p := 0x24, pc := 0x8002 } 3 []⟩,
    ⟨[0x2C, 0x00, 0x03], { cpu0 with a := 0x40 }, [(0x0300, 0x40)],
      .runs { cpu0 with a := 0x40, p := 0x64, pc := 0x8003 } 4 []⟩] = true := by decide

/-- V56, V57, V58, V59. -/
theorem test_adc_1 : allHold [
    ⟨[0x69, 0x50], { cpu0 with a := 0x50 }, [],
      .runs { cpu0 with a := 0xA0, p := 0xE4, pc := 0x8002 } 2 []⟩,
    ⟨[0x69, 0x90], { cpu0 with a := 0xD0 }, [],
      .runs { cpu0 with a := 0x60, p := 0x65, pc := 0x8002 } 2 []⟩,
    ⟨[0x69, 0x01], { cpu0 with a := 0xFF }, [],
      .runs { cpu0 with a := 0x00, p := 0x27, pc := 0x8002 } 2 []⟩,
    ⟨[0x69, 0x00], { cpu0 with a := 0x7F, p := 0x25 }, [],
      .runs { cpu0 with a := 0x80, p := 0xE4, pc := 0x8002 } 2 []⟩] = true := by decide

/-- V60, V61, V62. -/
theorem test_adc_2 : allHold [
    ⟨[0x69, 0xFF], { cpu0 with a := 0xFF, p := 0x25 }, [],
      .runs { cpu0 with a := 0xFF, p := 0xA5, pc := 0x8002 } 2 []⟩,
    ⟨[0x69, 0x01], { cpu0 with a := 0x09, p := 0x2C }, [],
      .runs { cpu0 with a := 0x0A, p := 0x2C, pc := 0x8002 } 2 []⟩,
    ⟨[0x79, 0xFF, 0x02], { cpu0 with a := 0x01, y := 0x01 }, [(0x0300, 0x02)],
      .runs { cpu0 with a := 0x03, y := 0x01, p := 0x24, pc := 0x8003 } 5 []⟩] = true := by decide

/-- V63, V64, V65, V66. -/
theorem test_sbc_1 : allHold [
    ⟨[0xE9, 0x01], { cpu0 with a := 0x10, p := 0x25 }, [],
      .runs { cpu0 with a := 0x0F, p := 0x25, pc := 0x8002 } 2 []⟩,
    ⟨[0xE9, 0xF0], { cpu0 with a := 0x50, p := 0x25 }, [],
      .runs { cpu0 with a := 0x60, p := 0x24, pc := 0x8002 } 2 []⟩,
    ⟨[0xE9, 0xB0], { cpu0 with a := 0x50, p := 0x25 }, [],
      .runs { cpu0 with a := 0xA0, p := 0xE4, pc := 0x8002 } 2 []⟩,
    ⟨[0xE9, 0x00], { cpu0 with a := 0x00 }, [],
      .runs { cpu0 with a := 0xFF, p := 0xA4, pc := 0x8002 } 2 []⟩] = true := by decide

/-- V67, V68, V69, V70. -/
theorem test_sbc_2 : allHold [
    ⟨[0xE9, 0x03], { cpu0 with a := 0x05 }, [],
      .runs { cpu0 with a := 0x01, p := 0x25, pc := 0x8002 } 2 []⟩,
    ⟨[0xE9, 0x01], { cpu0 with a := 0x80, p := 0x25 }, [],
      .runs { cpu0 with a := 0x7F, p := 0x65, pc := 0x8002 } 2 []⟩,
    ⟨[0xE9, 0x40], { cpu0 with a := 0x40, p := 0x25 }, [],
      .runs { cpu0 with a := 0x00, p := 0x27, pc := 0x8002 } 2 []⟩,
    ⟨[0xE9, 0x01], { cpu0 with a := 0x10, p := 0x2D }, [],
      .runs { cpu0 with a := 0x0F, p := 0x2D, pc := 0x8002 } 2 []⟩] = true := by decide

/-- V71, V72, V73, V74. -/
theorem test_cmp : allHold [
    ⟨[0xC9, 0x30], { cpu0 with a := 0x40 }, [],
      .runs { cpu0 with a := 0x40, p := 0x25, pc := 0x8002 } 2 []⟩,
    ⟨[0xC9, 0x40], { cpu0 with a := 0x40 }, [],
      .runs { cpu0 with a := 0x40, p := 0x27, pc := 0x8002 } 2 []⟩,
    ⟨[0xC9, 0x50], { cpu0 with a := 0x40 }, [],
      .runs { cpu0 with a := 0x40, p := 0xA4, pc := 0x8002 } 2 []⟩,
    ⟨[0xC9, 0x7F], { cpu0 with a := 0x80, p := 0x64 }, [],
      .runs { cpu0 with a := 0x80, p := 0x65, pc := 0x8002 } 2 []⟩] = true := by decide

/-- V75. -/
theorem test_cpx : allHold [
    ⟨[0xE4, 0x10], { cpu0 with x := 0x00 }, [(0x0010, 0x01)],
      .runs { cpu0 with x := 0x00, p := 0xA4, pc := 0x8002 } 3 []⟩] = true := by decide

/-- V76. -/
theorem test_cpy : allHold [
    ⟨[0xC0, 0xFF], { cpu0 with y := 0xFF }, [],
      .runs { cpu0 with y := 0xFF, p := 0x27, pc := 0x8002 } 2 []⟩] = true := by decide

/-- V77, V78, V79, V86. -/
theorem test_inc : allHold [
    ⟨[0xE6, 0x10], cpu0, [(0x0010, 0xFF)],
      .runs { cpu0 with p := 0x26, pc := 0x8002 } 5 [(0x0010, 0x00)]⟩,
    ⟨[0xE6, 0x10], cpu0, [(0x0010, 0x7F)],
      .runs { cpu0 with p := 0xA4, pc := 0x8002 } 5 [(0x0010, 0x80)]⟩,
    ⟨[0xFE, 0xF0, 0x02], { cpu0 with x := 0x10 }, [(0x0300, 0x01)],
      .runs { cpu0 with x := 0x10, p := 0x24, pc := 0x8003 } 7 [(0x0300, 0x02)]⟩,
    ⟨[0xEE, 0x00, 0x80], cpu0, [],
      .stops 0x8000 0xEF⟩] = true := by decide

/-- V80, V81. -/
theorem test_dec : allHold [
    ⟨[0xC6, 0x10], cpu0, [(0x0010, 0x00)],
      .runs { cpu0 with p := 0xA4, pc := 0x8002 } 5 [(0x0010, 0xFF)]⟩,
    ⟨[0xCE, 0x00, 0x03], cpu0, [(0x0300, 0x01)],
      .runs { cpu0 with p := 0x26, pc := 0x8003 } 6 [(0x0300, 0x00)]⟩] = true := by decide

/-- V82. -/
theorem test_inx : allHold [
    ⟨[0xE8], { cpu0 with x := 0xFF }, [],
      .runs { cpu0 with x := 0x00, p := 0x26, pc := 0x8001 } 2 []⟩] = true := by decide

/-- V83. -/
theorem test_iny : allHold [
    ⟨[0xC8], { cpu0 with y := 0x7F }, [],
      .runs { cpu0 with y := 0x80, p := 0xA4, pc := 0x8001 } 2 []⟩] = true := by decide

/-- V84. -/
theorem test_dex : allHold [
    ⟨[0xCA], { cpu0 with x := 0x00 }, [],
      .runs { cpu0 with x := 0xFF, p := 0xA4, pc := 0x8001 } 2 []⟩] = true := by decide

/-- V85. -/
theorem test_dey : allHold [
    ⟨[0x88], { cpu0 with y := 0x01 }, [],
      .runs { cpu0 with y := 0x00, p := 0x26, pc := 0x8001 } 2 []⟩] = true := by decide

/-- V87, V88, V89. -/
theorem test_asl : allHold [
    ⟨[0x0A], { cpu0 with a := 0x81 }, [],
      .runs { cpu0 with a := 0x02, p := 0x25, pc := 0x8001 } 2 []⟩,
    ⟨[0x0A], { cpu0 with a := 0x80 }, [],
      .runs { cpu0 with a := 0x00, p := 0x27, pc := 0x8001 } 2 []⟩,
    ⟨[0x06, 0x10], cpu0, [(0x0010, 0x40)],
      .runs { cpu0 with p := 0xA4, pc := 0x8002 } 5 [(0x0010, 0x80)]⟩] = true := by decide

/-- V90, V91. -/
theorem test_lsr : allHold [
    ⟨[0x4A], { cpu0 with a := 0x01, p := 0xA4 }, [],
      .runs { cpu0 with a := 0x00, p := 0x27, pc := 0x8001 } 2 []⟩,
    ⟨[0x5E, 0x00, 0x03], { cpu0 with x := 0x01 }, [(0x0301, 0xFE)],
      .runs { cpu0 with x := 0x01, p := 0x24, pc := 0x8003 } 7 [(0x0301, 0x7F)]⟩] = true := by decide

/-- V92, V93, V94. -/
theorem test_rol : allHold [
    ⟨[0x2A], { cpu0 with a := 0x80, p := 0x25 }, [],
      .runs { cpu0 with a := 0x01, p := 0x25, pc := 0x8001 } 2 []⟩,
    ⟨[0x2A], { cpu0 with a := 0x40 }, [],
      .runs { cpu0 with a := 0x80, p := 0xA4, pc := 0x8001 } 2 []⟩,
    ⟨[0x26, 0x10], cpu0, [(0x0010, 0x00)],
      .runs { cpu0 with p := 0x26, pc := 0x8002 } 5 [(0x0010, 0x00)]⟩] = true := by decide

/-- V95, V96, V97. -/
theorem test_ror : allHold [
    ⟨[0x6A], { cpu0 with a := 0x01, p := 0x25 }, [],
      .runs { cpu0 with a := 0x80, p := 0xA5, pc := 0x8001 } 2 []⟩,
    ⟨[0x6A], { cpu0 with a := 0x01 }, [],
      .runs { cpu0 with a := 0x00, p := 0x27, pc := 0x8001 } 2 []⟩,
    ⟨[0x76, 0x10], { cpu0 with x := 0x01, p := 0x25 }, [(0x0011, 0x02)],
      .runs { cpu0 with x := 0x01, p := 0xA4, pc := 0x8002 } 6 [(0x0011, 0x81)]⟩] = true := by decide

/-- V98, V99, V100. -/
theorem test_jmp : allHold [
    ⟨[0x4C, 0x00, 0x90], cpu0, [],
      .runs { cpu0 with p := 0x24, pc := 0x9000 } 3 []⟩,
    ⟨[0x6C, 0x00, 0x03], cpu0, [(0x0300, 0x00), (0x0301, 0x90)],
      .runs { cpu0 with p := 0x24, pc := 0x9000 } 5 []⟩,
    ⟨[0x6C, 0xFF, 0x03], cpu0, [(0x0300, 0x90), (0x03FF, 0x00), (0x0400, 0xA0)],
      .runs { cpu0 with p := 0x24, pc := 0x9000 } 5 []⟩] = true := by decide

/-- V101, V103. -/
theorem test_jsr : allHold [
    ⟨[0x20, 0x00, 0x90], cpu0, [],
      .runs { cpu0 with sp := 0xFB, p := 0x24, pc := 0x9000 } 6 [(0x01FD, 0x80), (0x01FC, 0x02)]⟩,
    ⟨[0x20, 0x00, 0x90], { cpu0 with sp := 0x00 }, [],
      .runs { cpu0 with sp := 0xFE, p := 0x24, pc := 0x9000 } 6 [(0x0100, 0x80), (0x01FF, 0x02)]⟩] = true := by decide

/-- V102, V104. -/
theorem test_rts : allHold [
    ⟨[0x60], { cpu0 with sp := 0xFB, pc := 0x9000 }, [(0x01FC, 0x02), (0x01FD, 0x80)],
      .runs { cpu0 with sp := 0xFD, pc := 0x8003, p := 0x24 } 6 []⟩,
    ⟨[0x60], { cpu0 with sp := 0xFB, pc := 0x9000 }, [(0x01FC, 0xFF), (0x01FD, 0xFF)],
      .runs { cpu0 with sp := 0xFD, pc := 0x0000, p := 0x24 } 6 []⟩] = true := by decide

/-- V105, V106. -/
theorem test_bcc : allHold [
    ⟨[0x90, 0x10], cpu0, [],
      .runs { cpu0 with p := 0x24, pc := 0x8012 } 3 []⟩,
    ⟨[0x90, 0x10], { cpu0 with p := 0x25 }, [],
      .runs { cpu0 with p := 0x25, pc := 0x8002 } 2 []⟩] = true := by decide

/-- V107, V108. -/
theorem test_bcs : allHold [
    ⟨[0xB0, 0x10], { cpu0 with p := 0x25 }, [],
      .runs { cpu0 with p := 0x25, pc := 0x8012 } 3 []⟩,
    ⟨[0xB0, 0x10], cpu0, [],
      .runs { cpu0 with p := 0x24, pc := 0x8002 } 2 []⟩] = true := by decide

/-- V109, V110. -/
theorem test_beq : allHold [
    ⟨[0xF0, 0xFC], { cpu0 with p := 0x26 }, [],
      .runs { cpu0 with p := 0x26, pc := 0x7FFE } 4 []⟩,
    ⟨[0xF0, 0xFC], cpu0, [],
      .runs { cpu0 with p := 0x24, pc := 0x8002 } 2 []⟩] = true := by decide

/-- V111, V112. -/
theorem test_bne : allHold [
    ⟨[0xD0, 0x80], { cpu0 with pc := 0x8080 }, [],
      .runs { cpu0 with pc := 0x8002, p := 0x24 } 3 []⟩,
    ⟨[0xD0, 0x80], { cpu0 with p := 0x26 }, [],
      .runs { cpu0 with p := 0x26, pc := 0x8002 } 2 []⟩] = true := by decide

/-- V113, V114. -/
theorem test_bmi : allHold [
    ⟨[0x30, 0x7F], { cpu0 with p := 0xA4 }, [],
      .runs { cpu0 with p := 0xA4, pc := 0x8081 } 3 []⟩,
    ⟨[0x30, 0x7F], cpu0, [],
      .runs { cpu0 with p := 0x24, pc := 0x8002 } 2 []⟩] = true := by decide

/-- V115, V116. -/
theorem test_bpl : allHold [
    ⟨[0x10, 0x01], { cpu0 with pc := 0x80FD }, [],
      .runs { cpu0 with pc := 0x8100, p := 0x24 } 4 []⟩,
    ⟨[0x10, 0x01], { cpu0 with p := 0xA4 }, [],
      .runs { cpu0 with p := 0xA4, pc := 0x8002 } 2 []⟩] = true := by decide

/-- V117, V118. -/
theorem test_bvc : allHold [
    ⟨[0x50, 0x00], cpu0, [],
      .runs { cpu0 with p := 0x24, pc := 0x8002 } 3 []⟩,
    ⟨[0x50, 0x00], { cpu0 with p := 0x64 }, [],
      .runs { cpu0 with p := 0x64, pc := 0x8002 } 2 []⟩] = true := by decide

/-- V119, V120. -/
theorem test_bvs : allHold [
    ⟨[0x70, 0xFE], { cpu0 with p := 0x64 }, [],
      .runs { cpu0 with p := 0x64, pc := 0x8000 } 3 []⟩,
    ⟨[0x70, 0xFE], cpu0, [],
      .runs { cpu0 with p := 0x24, pc := 0x8002 } 2 []⟩] = true := by decide

/-- V121. -/
theorem test_clc : allHold [
    ⟨[0x18], { cpu0 with p := 0xEF }, [],
      .runs { cpu0 with p := 0xEE, pc := 0x8001 } 2 []⟩] = true := by decide

/-- V122. -/
theorem test_sec : allHold [
    ⟨[0x38], cpu0, [],
      .runs { cpu0 with p := 0x25, pc := 0x8001 } 2 []⟩] = true := by decide

/-- V123. -/
theorem test_cli : allHold [
    ⟨[0x58], cpu0, [],
      .runs { cpu0 with p := 0x20, pc := 0x8001 } 2 []⟩] = true := by decide

/-- V124. -/
theorem test_sei : allHold [
    ⟨[0x78], { cpu0 with p := 0x20 }, [],
      .runs { cpu0 with p := 0x24, pc := 0x8001 } 2 []⟩] = true := by decide

/-- V125. -/
theorem test_cld : allHold [
    ⟨[0xD8], { cpu0 with p := 0x2C }, [],
      .runs { cpu0 with p := 0x24, pc := 0x8001 } 2 []⟩] = true := by decide

/-- V126. -/
theorem test_sed : allHold [
    ⟨[0xF8], cpu0, [],
      .runs { cpu0 with p := 0x2C, pc := 0x8001 } 2 []⟩] = true := by decide

/-- V127. -/
theorem test_clv : allHold [
    ⟨[0xB8], { cpu0 with p := 0xE4 }, [],
      .runs { cpu0 with p := 0xA4, pc := 0x8001 } 2 []⟩] = true := by decide

/-- V128, V129, V130. -/
theorem test_brk : allHold [
    ⟨[0x00], { cpu0 with pc := 0x1200 }, [(0xFFFE, 0x00), (0xFFFF, 0x13)],
      .runs { cpu0 with pc := 0x1300, sp := 0xFA, p := 0x24 } 7 [(0x01FD, 0x12), (0x01FC, 0x02), (0x01FB, 0x34)]⟩,
    ⟨[0x00, 0xEA], { cpu0 with p := 0xA1 }, [(0xFFFE, 0x00), (0xFFFF, 0x90)],
      .runs { cpu0 with p := 0xA5, sp := 0xFA, pc := 0x9000 } 7 [(0x01FD, 0x80), (0x01FC, 0x02), (0x01FB, 0xB1)]⟩,
    ⟨[0x00], { cpu0 with sp := 0x01 }, [(0xFFFE, 0x00), (0xFFFF, 0x90)],
      .runs { cpu0 with sp := 0xFE, p := 0x24, pc := 0x9000 } 7
        [(0x0101, 0x80), (0x0100, 0x02), (0x01FF, 0x34)]⟩] = true := by decide

/-- V131. -/
theorem test_nop : allHold [
    ⟨[0xEA], cpu0, [],
      .runs { cpu0 with p := 0x24, pc := 0x8001 } 2 []⟩] = true := by decide

/-- V132, V133. -/
theorem test_rti : allHold [
    ⟨[0x40], { cpu0 with sp := 0xFA, p := 0x24, pc := 0x9000 }, [(0x01FB, 0xF1), (0x01FC, 0x02), (0x01FD, 0x80)],
      .runs { cpu0 with sp := 0xFD, p := 0xE1, pc := 0x8002 } 6 []⟩,
    ⟨[0x40], { cpu0 with sp := 0xFA, pc := 0x9000 }, [(0x01FB, 0x00), (0x01FC, 0x34), (0x01FD, 0x12)],
      .runs { cpu0 with sp := 0xFD, pc := 0x1234, p := 0x20 } 6 []⟩] = true := by decide

/-- V134, V135, V136, V137. -/
theorem test_und : allHold [
    ⟨[0x02, 0xFF], cpu0, [],
      .runs { cpu0 with p := 0x24, pc := 0x8001 } 2 []⟩,
    ⟨[0x80, 0x44], { cpu0 with a := 0x12 }, [],
      .runs { cpu0 with a := 0x12, p := 0x24, pc := 0x8001 } 2 []⟩,
    ⟨[0xFF], { cpu0 with p := 0xE5 }, [],
      .runs { cpu0 with p := 0xE5, pc := 0x8001 } 2 []⟩,
    ⟨[0xA7, 0x10], { cpu0 with a := 0x55, x := 0x66 }, [(0x0010, 0x99)],
      .runs { cpu0 with a := 0x55, x := 0x66, p := 0x24, pc := 0x8001 } 2 []⟩] = true := by decide

/-! Boot and the clock. -/

/-- The state after reset is what the boot sequence leaves over an empty launch (70_reset_and_hazards.md R401). -/
theorem test_boot_empty_is_reset : boot Launch.empty = .next State.reset := rfl

/-- X1 and X2: the vector is little-endian, and MIRRORING = Other is refused. -/
theorem test_boot_vector :
    (match boot { Launch.empty with program := [(0xFFFC, 0x34), (0xFFFD, 0x12)] } with
      | .next s => decide (s.cpu.pc = 0x1234) && decide (s.cpu.sp = 0xFD) && decide (s.ram = [])
      | _ => false) = true := by decide

/-- R8, R400: RESET_CYCLES is a parameter. -/
theorem test_boot_reset_cycles :
    (match boot { Launch.empty with params := { Params.default with resetCycles := 8 } } with
      | .next t => decide (t.cpu.cyc = 8)
      | _ => false) = true := by decide

/-- R8: any `UNDEF_OP` boots, a row of the table or not. -/
theorem test_boot_undef_op :
    let launch := fun operation mode => boot { Launch.empty with
      params := { Params.default with undefOp := { operation := operation, mode := mode, cycles := 2 } } }
    (∃ t, launch .lda .imm = .next t) ∧ ∃ t, launch .lda .zpy = .next t := ⟨⟨_, rfl⟩, _, rfl⟩

theorem test_boot_refuses_other : boot { Launch.empty with mirroring := .other } = .refused .mirroringOther :=
  rfl

/-- The word placed by the interface runs in the very next step from reset (log entry 9): E4. -/
theorem test_fetch_word_runs :
    (match step (State.reset.withFetchWord 16 0x0AA9) with
      | .next t => decide (t.cpu = { Cpu.reset with a := 0x0A, pc := 0x0002, cyc := 2 })
      | _ => false) = true := by decide

/-- K1: the first global tick from reset is a PPU tick alone. -/
theorem test_first_tick_is_ppu_only :
    (match step State.reset with
      | .next t => decide (t.g = 1) && decide (t.cpu = Cpu.reset) && decide (t.ppu.cycle = 1) &&
          decide (t.trace = [.drawPixel 0 0 0])
      | _ => false) = true := by decide

/-- K1: in global tick 6 the CPU counts and the audio unit ticks. -/
theorem test_sixth_tick_counts_and_ticks_audio :
    (match step { State.reset with g := 5 } with
      | .next t => decide (t.g = 6) && decide (t.cpu.cyc = 6) && decide (t.trace = [.audioTick, .drawPixel 0 0 0])
      | _ => false) = true := by decide

/-- 60_exceptions.md R385, 52_clock_dma.md R340: a stopped machine makes no step. -/
theorem test_stopped_machine_stays :
    step { State.reset with fatal := some { addr := 0x8000, value := 0x11 } } =
      .fault (.cartridgeWrite 0x8000 0x11) := rfl

/-! Interrupts: X3 to X7. -/

/-- X3. -/
theorem test_nmi_entry :
    let s := placeCells [(0xFFFA, 0x00), (0xFFFB, 0x90)]
      { State.reset with cpu := { Cpu.reset with pc := 0x8123, p := 0xA1, cyc := 2 } }
    (enterNmi s).cpu = { Cpu.reset with sp := 0xFA, p := 0xA5, pc := 0x9000, cyc := 9 } ∧
      (enterNmi s).ram = [(0x01FB, 0xA1), (0x01FC, 0x23), (0x01FD, 0x81)] := by decide

/-- X5: the third push wraps inside page 1. -/
theorem test_nmi_entry_stack_wrap :
    let s := { State.reset with cpu := { Cpu.reset with pc := 0xC0DE, sp := 0x01 } }
    (enterNmi s).cpu.sp = 0xFE ∧ (enterNmi s).ram = [(0x0100, 0xDE), (0x0101, 0xC0), (0x01FF, 0x24)] := by decide

/-- R8, R377: NMI_CYCLES is a parameter. -/
theorem test_nmi_cycles :
    (enterNmi (withParams { Params.default with nmiCycles := 3 } State.reset)).cpu.cyc = 10 := by decide

/-- A state with the PPU at a position. -/
def ppuAt (scanline : Int) (cycle : Nat) (mask ctrl : Byte) : State :=
  State.reset.setPpu { Ppu.reset with scanline := scanline, cycle := cycle, mask := mask, ctrl := ctrl }

/-- X6: VBlank entry with `ctrl[7]` clear sets the flag and raises no NMI. -/
theorem test_vblank_without_nmi :
    (ppuTick (ppuAt 241 0 0x00 0x00)).ppu.status = 0x80 ∧ (ppuTick (ppuAt 241 0 0x00 0x00)).cpu = Cpu.reset := by decide

theorem test_vblank_with_nmi : (ppuTick (ppuAt 241 0 0x00 0x80)).cpu.sp = 0xFA := by decide

/-- X7: setting `ctrl[7]` later in VBlank raises no NMI. -/
theorem test_late_nmi_enable : (ppuTick (ppuAt 245 10 0x00 0x80)).cpu = Cpu.reset := by decide

/-! The CPU bus: 20_memory.md R61 to R67 and the table 2.12. -/

theorem test_ram_mirrors :
    ((memWrite 0x1800 0x5A State.reset).map fun t => [byteAt t 0x0000, byteAt t 0x0800, byteAt t 0x1000]) =
      some [0x5A, 0x5A, 0x5A] := by decide

/-- $3456 is register 6, the address register. -/
theorem test_ppu_register_mirror :
    (memWrite 0x3456 0x21 State.reset).map (fun t => (t.ppu.t, t.ppu.w)) = some (0x2100, true) := by decide

theorem test_io_writes :
    (memWrite 0x4016 0x03 State.reset).map (·.trace) = some [.joypadStrobe true] ∧
    (memWrite 0x4017 0x40 State.reset).map (·.trace) = some [.audioWrite 0x4017 0x40] ∧
    (memWrite 0x4015 0x0F State.reset).map (·.trace) = some [.audioWrite 0x4015 0x0F] ∧
    memWrite 0x4018 0xFF State.reset = some State.reset := by decide

theorem test_dma_start_write :
    (memWrite 0x4014 0x02 State.reset).map (fun t => (t.dma, t.trace)) =
      some ({ active := true, dummy := true, page := 0x02, index := 0, data := 0 }, []) := by decide

/-! PPU registers: 50_ppu_registers.md R271 and the table 2.13. -/

/-- Register writes one after another. -/
def regWrites (l : List (BitVec 3 × Byte)) (p : Ppu) : Ppu :=
  l.foldl (fun p x => ppuRegWrite State.reset.fixed x.1 x.2 p) p

/-- R271 steps 1 to 6: the data register is delayed by one read. -/
theorem test_register_sequence_data :
    let fixed := State.reset.fixed
    let p := regWrites [(6, 0x21), (6, 0x08), (7, 0xAB), (6, 0x21), (6, 0x08)] Ppu.reset
    let r1 := ppuRegRead fixed 7 p
    let r2 := ppuRegRead fixed 7 r1.2
    p.v = 0x2108 ∧ r1.1 = 0 ∧ r1.2.v = 0x2109 ∧ r2.1 = 0xAB ∧ r2.2.v = 0x210A := by decide

/-- R271 steps 7 and 8, E7: palette reads are at once and $3F10 is the cell of $3F00. -/
theorem test_register_sequence_palette :
    let p := regWrites [(6, 0x3F), (6, 0x10), (7, 0x0F), (6, 0x3F), (6, 0x00)] Ppu.reset
    let r := ppuRegRead State.reset.fixed 7 p
    r.1 = 0x0F ∧ r.2.dataBuffer = 0x0F ∧ r.2.v = 0x3F01 := by decide

/-- R271 steps 9 to 11: the scroll writes. -/
theorem test_register_sequence_scroll :
    let p := regWrites [(0, 0x03), (5, 0x7D), (5, 0x5E)] { Ppu.reset with t := 0x3F00 }
    p.t = 0x6D6F ∧ p.x = 5 ∧ p.w = false ∧ p.ctrl = 0x03 := by decide

/-- R271 step 12: the status read clears the shared toggle. -/
theorem test_register_sequence_toggle :
    let p := regWrites [(5, 0xFF)] Ppu.reset
    let q := regWrites [(5, 0x00)] (ppuRegRead State.reset.fixed 2 p).2
    q.t = 0 ∧ q.x = 0 ∧ q.w = true := by decide

/-- R271 step 13: the increment by 32. -/
theorem test_register_sequence_increment :
    (regWrites [(0, 0x04), (6, 0x20), (6, 0x00), (7, 0x00), (7, 0x00)] Ppu.reset).v = 0x2040 := by decide

/-- G1v. -/
theorem test_status_read :
    let r := ppuRegRead State.reset.fixed 2 { Ppu.reset with status := 0xE0, w := true }
    r.1 = 0xE0 ∧ r.2.status = 0x60 ∧ r.2.w = false := by decide

/-- G4v. -/
theorem test_oam_data_wraps :
    let p := ppuRegWrite State.reset.fixed 4 0x12 { Ppu.reset with oamAddr := 0xFF }
    p.oam = [(0xFF, 0x12)] ∧ p.oamAddr = 0x00 := by decide

/-- G5v. -/
theorem test_oam_data_read_keeps_address :
    let r := ppuRegRead State.reset.fixed 4 { Ppu.reset with oamAddr := 0x10, oam := [(0x10, 0x77)] }
    r.1 = 0x77 ∧ r.2.oamAddr = 0x10 := by decide

/-- G6v, G7v, G8v, G9v. -/
theorem test_register_corners :
    (ppuRegWrite State.reset.fixed 0 0x00 { Ppu.reset with t := 0x7FFF }).t = 0x73FF ∧
    (ppuRegWrite State.reset.fixed 6 0xFF Ppu.reset).t = 0x3F00 ∧
    (ppuRegWrite State.reset.fixed 7 0x05 { Ppu.reset with v := 0x3FFF }).pal = [(0x1F, 0x05)] ∧
    (ppuRegWrite State.reset.fixed 7 0x05 { Ppu.reset with v := 0x3FFF }).v = 0x4000 ∧
    (ppuRegRead State.reset.fixed 7 { Ppu.reset with v := 0x7FFF, ctrl := 0x04 }).2.v = 0x001F := by decide

/-- G10v: pattern space has no write. -/
theorem test_pattern_write_dropped :
    ppuRegWrite State.reset.fixed 7 0xAA { Ppu.reset with v := 0x0010 } = { Ppu.reset with v := 0x0011 } := by decide

/-- G11v. -/
theorem test_vertical_mirroring :
    let fixed := { State.reset.fixed with mirroring := .vertical }
    let p := ppuWrite fixed 0x2005 0xAB Ppu.reset
    ppuRead fixed p 0x2805 = 0xAB ∧ ppuRead fixed p 0x2405 = 0x00 := by decide

/-- G12v, G13v. -/
theorem test_horizontal_mirroring :
    let fixed := State.reset.fixed
    let p := ppuWrite fixed 0x3005 0xAB Ppu.reset
    ppuRead fixed p 0x2405 = 0xAB ∧ ppuRead fixed p 0x2005 = 0xAB ∧ ppuRead fixed p 0x2805 = 0x00 := by decide

/-! PPU rendering: 51_ppu_rendering.md R330 and the table 2.14. -/

theorem test_inc_x : incXv 0x2108 = 0x2109 ∧ incXv 0x001F = 0x0400 ∧ incXv 0x041F = 0x0000 := by decide

theorem test_inc_y : incYv 0x1000 = 0x2000 ∧ incYv 0x73A0 = 0x0800 ∧ incYv 0x73E0 = 0x0000 ∧ incYv 0x7020 = 0x0040 := by
  decide

theorem test_resets : resetXv 0x7FFF 0x0000 = 0x7BE0 ∧ resetYv 0x7FFF 0x0000 = 0x041F := by decide

theorem test_background_addresses :
    nametableAddr 0x0108 = 0x2108 ∧ attributeAddr 0x0108 = 0x23D2 ∧ attributeShift 0x0108 = 0 ∧
    attributeAddr 0x014A = 0x23D2 ∧ attributeShift 0x014A = 6 ∧
    bgPatternAddr { Ppu.reset with ctrl := 0x10, nextTileId := 0x24, v := 0x3000 } = 0x1243 := by decide

theorem test_sprite_addresses :
    spritePatternAddr 0x00 0x10 0x00 2 = 0x0102 ∧ spritePatternAddr 0x00 0x10 0x80 2 = 0x0105 ∧
    spritePatternAddr 0x20 0x11 0x00 10 = 0x1112 ∧ spritePatternAddr 0x20 0x11 0x80 10 = 0x1105 := by decide

theorem test_reverse8 : reverse8 0xB0 = 0x0D := by decide

theorem test_palette_addresses :
    paletteAddr { pal := 2, px := 3 } = 0x3F0B ∧ paletteAddr { pal := 5, px := 2 } = 0x3F16 ∧
    paletteAddr { pal := 0, px := 0 } = 0x3F00 := by decide

/-- H1, H2, H3. -/
theorem test_background_pixel :
    let p : Ppu := { Ppu.reset with mask := 0x08, bgPatLo := 0x8000, bgAttrLo := 0xFFFF }
    backgroundPixel p = { pal := 1, px := 1 } ∧ backgroundPixel { p with x := 3 } = { pal := 1, px := 0 } ∧
    muxPixel (backgroundPixel { p with x := 3 }) none = { pal := 0, px := 0 } ∧
    backgroundPixel { p with mask := 0x10 } = { pal := 0, px := 0 } := by decide

/-- Slots 0 and 1 as given, the others cleared. -/
def withSlots (q0 q1 : SpriteSlot) : Ppu :=
  { Ppu.reset with mask := 0x18, slots := q0 :: q1 :: List.replicate 6 SpriteSlot.cleared }

/-- H4, H5, H6. -/
theorem test_multiplexer :
    let p := fun attr => withSlots { patLo := 0x80, patHi := 0x80, attr := attr, x := 0 } SpriteSlot.cleared
    muxPixel { pal := 0, px := 0 } (foregroundPixel (p 0x01)) = { pal := 5, px := 3 } ∧
    muxPixel { pal := 1, px := 2 } (foregroundPixel (p 0x01)) = { pal := 5, px := 3 } ∧
    muxPixel { pal := 1, px := 2 } (foregroundPixel (p 0x21)) = { pal := 1, px := 2 } := by decide

/-- H7. -/
theorem test_foreground_priority :
    foregroundPixel (withSlots SpriteSlot.cleared { patLo := 0x80, patHi := 0x00, attr := 0x02, x := 0 }) =
      some { pixel := { pal := 6, px := 1 }, front := true, slot := 1 } := by decide

/-- H8: the countdown reaches 0 before the shifting starts. -/
theorem test_sprite_step :
    let q : SpriteSlot := { patLo := 0xFF, patHi := 0x00, attr := 0x00, x := 3 }
    let q3 := stepSlot (stepSlot (stepSlot q))
    q3 = { q with x := 0 } ∧ (stepSlot q3).patLo = 0xFE := by decide

/-- R320, H13: an opaque pixel of slot 0 holding OAM entry 0 hits, but not at cycle 254. -/
theorem test_sprite_zero_hit :
    let hit := spriteZeroHit State.reset.fixed
    let p := { withSlots { patLo := 0x80, patHi := 0, attr := 0, x := 0 } SpriteSlot.cleared with spr0Line := true }
    hit { p with cycle := 80 } = true ∧ hit { p with cycle := 254 } = false ∧
    hit { p with cycle := 80, mask := 0x08 } = false ∧ hit { p with cycle := 80, spr0Line := false } = false := by decide

/-- R8: the excluded cycle is a parameter. -/
theorem test_sprite_zero_excluded_cycle :
    let hit := spriteZeroHit (withParams { Params.default with sprite0ExcludedCycle := 255 } State.reset).fixed
    let p := { withSlots { patLo := 0x80, patHi := 0, attr := 0, x := 0 } SpriteSlot.cleared with spr0Line := true }
    hit { p with cycle := 254 } = true ∧ hit { p with cycle := 255 } = false := by decide

/-- OAM entries 0 to `n - 1` at line 96, the others off screen (E8). -/
def spritesAt96 (n : Nat) : Memory :=
  (List.range 64).flatMap fun k => [(4 * k, if k < n then 0x60 else 0xF0), (4 * k + 1, BitVec.ofNat 8 (k + 1))]

/-- E8: nine matches fill secondary OAM and set the overflow bit. -/
theorem test_sprite_evaluation_overflow :
    let p := spriteEvaluate { Ppu.reset with mask := 0x18, scanline := 100, oam := spritesAt96 9 }
    p.spriteCount = 8 ∧ p.status = 0x20 ∧ p.spr0Next = true ∧ Memory.read p.secOam 29 = 8 := by decide +kernel

/-- E8: one match fewer leaves the overflow bit; at scanline 104 nothing matches. -/
theorem test_sprite_evaluation_range :
    let p := spriteEvaluate { Ppu.reset with scanline := 100, oam := spritesAt96 8 }
    let q := spriteEvaluate { Ppu.reset with scanline := 104, oam := spritesAt96 9 }
    p.spriteCount = 8 ∧ p.status = 0x00 ∧ q.spriteCount = 0 ∧ q.status = 0x00 := by decide +kernel

/-- H17. -/
theorem test_prerender_clear :
    let s := ppuAt (-1) 0 0x00 0x00
    (ppuTick (s.setPpu { s.ppu with status := 0xE0 })).ppu.status = 0x00 := by decide

/-- H18, H19, H20. -/
theorem test_advance_position :
    let pos := fun s : State => (s.ppu.scanline, s.ppu.cycle, s.trace)
    pos (advancePosition (ppuAt 100 340 0 0)) = (101, 0, []) ∧
    pos (advancePosition (ppuAt 260 340 0 0)) = (-1, 0, [.presentFrame]) ∧
    pos (advancePosition (ppuAt (-1) 340 0 0)) = (0, 0, []) := by decide

/-- H16: a gated pixel is the backdrop's colour. -/
theorem test_gated_pixel :
    let s := ppuAt 10 20 0x00 0x00
    (ppuTick (s.setPpu { s.ppu with pal := [(0, 0x0F)] })).trace = [.drawPixel 20 10 0x0F] := by decide

/-! OAM DMA: the table 2.15. -/

/-- K5, K6: the dummy waits for an odd CPU tick. -/
theorem test_dma_dummy :
    let s := dmaStart 0x02 State.reset
    (dmaStep { s with g := 6 }).dma.dummy = true ∧ (dmaStep { s with g := 9 }).dma.dummy = false := by decide

/-- K4: a read in an even tick, the write in the odd one. -/
theorem test_dma_pair :
    let s := { dmaStart 0x02 { State.reset with ram := [(0x0200, 0x77)] } with g := 12 }
    let r := dmaStep (s.setDma { s.dma with dummy := false })
    r.dma.data = 0x77 ∧ (dmaStep { r with g := 15 }).ppu.oam = [(0, 0x77)] := by decide

/-- K4: the last write ends the transfer. -/
theorem test_dma_last_byte :
    let s := { State.reset with g := 15, dma := { active := true, dummy := false, page := 2, index := 0xFF, data := 1 } }
    (dmaStep s).dma = { active := false, dummy := true, page := 2, index := 0, data := 1 } := by decide

/-! Witnesses: for every statement with hypotheses, concrete values that meet all of them together, clause by clause
and at the ends of their ranges. -/

/-- The next step of this state runs LDA #$0A (E4). -/
def loadState : State := small [0xA9, 0x0A] cpu0 []

theorem witness_DecodeOfEncodeIsTheInstruction :
    (Instr.ldaImm 0xFF).WellFormed ∧ (Instr.jmpAbs 0xFFFF).WellFormed ∧ (Instr.und 0xFF).WellFormed := by decide

theorem witness_DecodedBytesAreTheEncoding : decode [0xAD, 0xFF, 0xFF, 0x55] = .ok (.ldaAbs 0xFFFF, [0x55]) := rfl

theorem witness_StepRunsTheDecodedInstruction :
    let u := ppuStage loadState
    loadState.Running ∧ u.g % 3 = 0 ∧ u.dma.active = false ∧ u.cpu.cyc ≤ 1 ∧
      decode (fetchBytes (Instr.ldaImm 0x0A).length (u.charge 0)).1 = .ok (.ldaImm 0x0A, []) :=
  ⟨rfl, rfl, rfl, by decide, rfl⟩

/-- The next step of this state runs the undefined opcode $02, the byte $34 behind it, with the given table entry. -/
def undefState (operation : Operation) (mode : Mode) (cycles : Nat) : State :=
  withParams { Params.default with undefOp := { operation := operation, mode := mode, cycles := cycles } }
    (small [0x02, 0x34, 0x12] cpu0 [])

/-- R139: `UNDEF_OP` = (LDA, immediate, 3) makes $02 load its operand byte in 3 cycles, and the default entry leaves the
byte behind $02 alone (R110). -/
theorem test_undefined_opcode_entry :
    let after := fun s => match step s with
      | .next t => some t.cpu
      | _ => none
    after (undefState .lda .imm 3) = some { cpu0 with a := 0x34, pc := 0x8002, cyc := 3 } ∧
    after (undefState .nop .imp 2) = some { cpu0 with pc := 0x8001, cyc := 2 } := by decide

/-- R139, R421: `UNDEF_OP` = (STA, absolute, 9) stores at the operand address in 9 cycles. -/
theorem test_undefined_opcode_store :
    (match step ((undefState .sta .abs 9).mapCpu (·.setA 0x5A)) with
      | .next t => decide (t.cpu.cyc = 9) && decide (t.cpu.pc = 0x8003) && decide (byteAt t 0x1234 = 0x5A)
      | _ => false) = true := by decide

/-- What $02 leaves of the CPU with a table entry, its opcode byte fetched: `pc` is `c.pc`, the bytes $34 $12 stand
there. -/
def afterUndefined (operation : Operation) (mode : Mode) (c : Cpu) (cells : List (Addr × Byte)) : Option State :=
  match exec (.und 0x02) (withParams
      { Params.default with undefOp := { operation := operation, mode := mode, cycles := 3 } }
      (small [0x34, 0x12] c cells)) with
  | .next t => some t
  | _ => none

/-- R139 outside the table: (INX, imm) steps over one byte, (LDA, zpy) loads from $34 + Y, (BEQ, abs) goes to $1234 on
another page, (JMP, imm) to its operand byte, (INC, acc) leaves its byte in A. -/
theorem test_undefined_opcode_outside_table :
    (afterUndefined .inx .imm cpu0 []).map (·.cpu) = some { cpu0 with x := 0x01, pc := 0x8001, cyc := 3, p := 0x24 } ∧
    (afterUndefined .lda .zpy { cpu0 with y := 0x02 } [(0x0036, 0x77)]).map (·.cpu) =
      some { cpu0 with a := 0x77, y := 0x02, pc := 0x8001, cyc := 3 } ∧
    (afterUndefined .beq .abs { cpu0 with p := 0x26 } []).map (·.cpu) =
      some { cpu0 with p := 0x26, pc := 0x1234, cyc := 5 } ∧
    (afterUndefined .jmp .imm cpu0 []).map (·.cpu) = some { cpu0 with pc := 0x8000, cyc := 3 } ∧
    (afterUndefined .inc .acc { cpu0 with a := 0x7F } []).map (·.cpu) =
      some { cpu0 with a := 0x80, p := 0xA4, pc := 0x8000, cyc := 3 } := by decide

/-- R123, R134: (NOP, imm) makes no bus read where (NOP, zp) reads its operand byte, here of joypad port 0. -/
theorem test_undefined_opcode_reads :
    (afterUndefined .nop .imm { cpu0 with pc := 0x4016 } []).map (·.joypadReads) = some 0 ∧
    (afterUndefined .nop .zp { cpu0 with pc := 0x4016 } []).map (·.joypadReads) = some 1 ∧
    (afterUndefined .lda .imm { cpu0 with pc := 0x4016 } []).map (·.joypadReads) = some 1 := by decide

/-- R121, R144: (STA, imp) writes at the effective address 0. -/
theorem test_undefined_opcode_store_implied :
    (afterUndefined .sta .imp { cpu0 with a := 0x5A } []).map (byteAt · 0x0000) = some 0x5A := by decide

/-- Where `afterUndefined` starts. -/
def entryState (operation : Operation) (mode : Mode) : State :=
  withParams { Params.default with undefOp := { operation := operation, mode := mode, cycles := 3 } }
    (small [0x34, 0x12] cpu0 [])

/-- One witness for each clause: rows of one, two and three bytes; `und`; an operation without operand in another mode; a
branch in another mode; an operand in memory, a store in implied mode, a jump; a store and a shift on the accumulator; a
load, a bit test and an increment with nothing to read. -/
theorem witness_UndefinedOpcodesRunTheirTableEntry :
    let tag := fun s : State => (resolveMode s.fixed.params.undefOp.mode s).1.tag
    let ea := fun s : State => (resolveMode s.fixed.params.undefOp.mode s).1.ea
    (entryState .tax .imp).Running ∧
    ((Instr.tax).operation = .tax ∧ (Instr.tax).mode = .imp ∧ (encode .tax).tail = (fetchBytes 0 (entryState .tax .imp)).1) ∧
    ((Instr.ldaImm 0x34).operation = .lda ∧ (Instr.ldaImm 0x34).mode = .imm ∧
      (encode (.ldaImm 0x34)).tail = (fetchBytes 1 (entryState .lda .imm)).1) ∧
    ((Instr.staAbs 0x1234).operation = .sta ∧ (Instr.staAbs 0x1234).mode = .abs ∧
      (encode (.staAbs 0x1234)).tail = (fetchBytes 2 (entryState .sta .abs)).1) ∧
    (entryState .und .izy).fixed.params.undefOp.operation = .und ∧
    (entryState .inx .ind).fixed.params.undefOp.operation = Instr.inx.operation ∧
    branchTest (entryState .beq .abs).fixed.params.undefOp.operation = some (.z, true) ∧
    (tag (entryState .lda .zpy) = .mem ∧ (Instr.ldaAbs (ea (entryState .lda .zpy))).operand =
      .src (.mem (.abs (ea (entryState .lda .zpy))))) ∧
    (tag (entryState .sta .imp) = .none ∧ ea (entryState .sta .imp) = 0) ∧
    ea (entryState .jmp .acc) = 0 ∧
    tag (entryState .sta .acc) = .acc ∧ storeValue .sta cpu0 = some cpu0.a ∧ modifyResult .ror true 0xFF = some 0xFF ∧
    tag (entryState .inc .imp) = .none ∧ modifyResult .inc false 0xFF = some 0 ∧
    Memory.wf 0 2048 (entryState .inc .imp).ram = true := by decide

/-- R340, R352: the sixth tick sounds, the third does not, and none of a stopped machine does. -/
theorem witness_StepBetweenInstructions :
    let counting := loadState.mapCpu (·.setCyc 2)
    let dma := dmaStart 0x02 loadState
    (State.reset.Running ∧ (ppuStage State.reset).g % 3 ≠ 0) ∧
    (counting.Running ∧ (ppuStage counting).g % 3 = 0 ∧ (ppuStage counting).dma.active = false ∧
      1 < (ppuStage counting).cpu.cyc) ∧
    (dma.Running ∧ (ppuStage dma).g % 3 = 0 ∧ (ppuStage dma).dma.active = true) ∧
    (audioStage (loadState.setG 6)).trace = [.audioTick] ∧ (audioStage (loadState.setG 3)).trace = [] ∧
    (audioStage (raiseFatal 0x4020 0xFF (loadState.setG 6))).trace = [] := by decide

/-- Two bytes at the end of RAM's range, and three at the start of the cartridge's. -/
theorem witness_FetchAdvancesPcByTheLength :
    let ram := small [0xA9, 0x0A] { cpu0 with pc := 0x1FFE } []
    let fixed := small [0xAD, 0x00, 0x00] { cpu0 with pc := 0x4020 } []
    (∀ k < (fetchInstr ram).1.length, ram.cpu.pc + BitVec.ofNat 16 k ≤ 0x1FFF ∨ 0x4020 ≤ ram.cpu.pc + BitVec.ofNat 16 k) ∧
    (∀ k < (fetchInstr fixed).1.length,
      fixed.cpu.pc + BitVec.ofNat 16 k ≤ 0x1FFF ∨ 0x4020 ≤ fixed.cpu.pc + BitVec.ofNat 16 k) := by decide

theorem witness_OnlyTheFatalConditionStops :
    State.reset.Running ∧ (raiseFatal 0x4020 0xFF State.reset).fatal = some { addr := 0x4020, value := 0xFF } := by decide

theorem witness_BootLeavesTheSpecifiedState :
    ({ Launch.empty with mirroring := .other } : Launch).mirroring = .other ∧ Launch.empty.mirroring ≠ .other := by decide

theorem witness_BootMeetsTheInvariant : Launch.empty.WellFormed ∧ boot Launch.empty = .next State.reset :=
  ⟨⟨rfl, rfl, rfl, rfl, rfl, rfl, by decide, by decide⟩, rfl⟩

theorem reset_meets_inv : Inv State.reset where
  statusBit5 := rfl
  statusBit4 := rfl
  ram := rfl
  oam := rfl
  secOam := rfl
  nt := rfl
  pal := rfl
  program := rfl
  tiles := rfl
  slots := rfl
  spriteCount := by decide
  scanline := by decide
  cycle := by decide
  ppuStatus := rfl
  dmaOamAddr := by decide
  dmaIdle := by decide
  undefCycles := by decide
  cyc := by decide

theorem witness_StepKeepsTheInvariant : Inv State.reset ∧ ∃ t, step State.reset = .next t := ⟨reset_meets_inv, _, rfl⟩

theorem witness_NoStepClearsStatusBitFive :
    State.reset.cpu.flag .u = true ∧ ∃ t, step State.reset = .next t := ⟨rfl, _, rfl⟩

/-- The last position of a frame. -/
theorem witness_StepAdvancesClockAndPosition :
    let s := ppuAt 260 340 0 0
    (-1 ≤ s.ppu.scanline ∧ s.ppu.scanline ≤ 260 ∧ s.ppu.cycle ≤ 340) ∧ ∃ t, step s = .next t :=
  ⟨by decide, _, rfl⟩

theorem witness_FrameIs89342Ticks :
    let s := ppuAt (-1) 340 0x18 0
    (-1 ≤ s.ppu.scanline ∧ s.ppu.scanline ≤ 260 ∧ s.ppu.cycle ≤ 340) ∧
      State.reset.ppu.scanline = 0 ∧ State.reset.ppu.cycle = 0 := by decide

theorem witness_RamIsMirrored :
    (0x0000 : Addr) ≤ 0x1FFF ∧ (0x1FFF : Addr) ≤ 0x1FFF ∧ Memory.wf 0 2048 State.reset.ram := by decide

theorem witness_PpuRegistersAreMirrored :
    ((0x2000 : Addr) ≤ 0x2000 ∧ (0x2000 : Addr) ≤ 0x3FF8 ∧ (0x3FF8 : Addr) ≤ 0x3FFF ∧
      (0x2000 : Addr).toNat % 8 = (0x3FF8 : Addr).toNat % 8) ∧
    ((0x2000 : Addr) ≤ 0x2007 ∧ (0x2007 : Addr) ≤ 0x3FFF ∧ (0x2007 : Addr).toNat % 8 = (0x3FFF : Addr).toNat % 8) := by
  decide

/-- $4000, $4015, $401F; the addresses of the two joypad ports; the first and the last cartridge address. -/
theorem witness_IoRangeDecodes :
    ([0x4000, 0x4015, 0x4018, 0x401F] : List Addr).all
      (fun a => decide (0x4000 ≤ a) && decide (a ≤ 0x401F) && decide (a ≠ 0x4016) && decide (a ≠ 0x4017)) = true ∧
    ([0x4020, 0xFFFF] : List Addr).all (fun a => decide (0x4020 ≤ a) && decide (memWrite a 0 State.reset = none)) = true ∧
    memWrite 0x401F 0 State.reset ≠ none ∧
    ((0x4016 : Addr) = 0x4016 ∧ (0 : Nat) = 0) ∧ ((0x4017 : Addr) = 0x4017 ∧ (1 : Nat) = 1) := by decide

/-- R61, R354: the ports of $4016 and $4017 are 0 and 1. -/
theorem test_joypad_ports (s : State) :
    (memRead 0x4016 s).1 = (joypadRead 0 s).1 ∧ (memRead 0x4017 s).1 = (joypadRead 1 s).1 := ⟨rfl, rfl⟩

/-- The first and the last palette address. -/
theorem witness_PaletteIsAliased :
    Memory.wf 0 32 Ppu.reset.pal ∧ (0x3F00 : Addr) ≤ 0x3F00 ∧ (0x3F00 : Addr) ≤ 0x3FFF ∧ (0x3FFF : Addr) ≤ 0x3FFF := by
  decide

/-- The first and the last tile address, the first and the last nametable address, and an address that folds. -/
theorem witness_NametablesAreMirrored :
    ((0x0000 : Addr) ≤ 0x1FFF ∧ (0x1FFF : Addr) ≤ 0x1FFF ∧ ¬ (0x2000 : Addr) ≤ 0x1FFF) ∧
    (Memory.wf 0 2048 Ppu.reset.nt ∧ (0x2000 : Addr) ≤ 0x2000 ∧ (0x2000 : Addr) ≤ 0x3EFF ∧ (0x3EFF : Addr) ≤ 0x3EFF ∧
      ¬ (0x3F00 : Addr) ≤ 0x3EFF) ∧
    (0x5FFF : Addr).toNat % 16384 = 0x1FFF := by decide

/-- R73 to R79: tile bytes, read directly and through the fold; a write below $2000 is dropped, one at $2000 or $3F00
goes to its own RAM alone. -/
theorem test_ppu_bus :
    let fixed := { State.reset.fixed with tiles := [(0x0000, 0x3C), (0x1FFF, 0xA5)] }
    let bytes := fun q : Ppu => [ppuRead fixed q 0x1FFF, ppuRead fixed q 0x2000, ppuRead fixed q 0x3F00]
    ppuRead fixed Ppu.reset 0x0000 = 0x3C ∧ ppuRead fixed Ppu.reset 0x5FFF = 0xA5 ∧
    bytes (ppuWrite fixed 0x1FFF 0x77 Ppu.reset) = [0xA5, 0, 0] ∧
    bytes (ppuWrite fixed 0x2000 0x77 Ppu.reset) = [0xA5, 0x77, 0] ∧
    bytes (ppuWrite fixed 0x3F00 0x77 Ppu.reset) = [0xA5, 0, 0x77] := by decide

theorem witness_StatusReadClearsVblankAndToggle :
    ((0x2000 : Addr) ≤ 0x2002 ∧ (0x2002 : Addr) ≤ 0x3FFF ∧ (0x2002 : Addr).toNat % 8 = 2) ∧
    ((0x2000 : Addr) ≤ 0x3FFA ∧ (0x3FFA : Addr) ≤ 0x3FFF ∧ (0x3FFA : Addr).toNat % 8 = 2) := by decide

theorem witness_ScrollAndAddressWritesPackT : Ppu.reset.w = false ∧ ({ Ppu.reset with w := true } : Ppu).w = true := by
  decide

/-- `v` at the last nametable address, at the first palette address, and at the last, where the count wraps. -/
theorem witness_DataRegisterIsDelayed :
    (0x3EFF : BitVec 15).toNat % 16384 < 0x3F00 ∧ 0x3F00 ≤ (0x3F00 : BitVec 15).toNat % 16384 ∧
    0x3F00 ≤ (0x3FFF : BitVec 15).toNat % 16384 ∧ ((0x3FFF : BitVec 15).toNat % 16384 + 1) % 16384 < 0x3F00 := by decide

theorem witness_OamDataRegister : Memory.wf 0 256 Ppu.reset.oam := by decide

/-- The premise `line` of the statement. -/
def onRenderingLine (s : State) : Bool :=
  s.ppu.renderingEnabled && decide (-1 ≤ s.ppu.scanline) && decide (s.ppu.scanline ≤ 239)

/-- Coarse X at cycles 7, 247, 327, 335; Y at 255; the reloads at 256, 280, 304; nothing at 336 and on line 240. The OAM
address at 256 and 319, not at 255, 320 and on line 240. -/
theorem witness_VramAddressDuringRendering :
    ([7, 247, 327, 335].all fun c => onRenderingLine (ppuAt 239 c 0x08 0) && decide (c % 8 = 7) &&
      (decide (c < 255) || (decide (320 ≤ c) && decide (c ≤ 335)))) = true ∧
    onRenderingLine (ppuAt 0 255 0x10 0) = true ∧ onRenderingLine (ppuAt 0 256 0x10 0) = true ∧
    onRenderingLine (ppuAt (-1) 280 0x18 0) = true ∧ onRenderingLine (ppuAt (-1) 304 0x18 0) = true ∧
    onRenderingLine (ppuAt (-1) 336 0x18 0) = true ∧ onRenderingLine (ppuAt 240 7 0x18 0) = false := by decide

theorem witness_RenderingGateHoldsThePpu :
    let s := ppuAt (-1) 0 0xE7 0xFF
    let t := ppuAt (-1) 1 0xE7 0xFF
    (s.ppu.mask.getLsbD 3 = false ∧ s.ppu.mask.getLsbD 4 = false) ∧
    (t.ppu.mask.getLsbD 3 = false ∧ t.ppu.mask.getLsbD 4 = false ∧ ¬(t.ppu.scanline = -1 ∧ t.ppu.cycle = 0)) := by decide

/-- R291, R310, R325: a visible tick that fetches a tile and evaluates sprites, and the tick that raises NMI, keep what
the program wrote into the PPU, and the latter starts no DMA and sets no fault. -/
theorem test_ppu_tick_keeps :
    let rendering := (ppuAt 0 255 0x18 0x04).setPpu { (ppuAt 0 255 0x18 0x04).ppu with
      t := 0x1234, x := 5, w := true, dataBuffer := 0xA5, oam := [(0, 1)], nt := [(0, 0x42)], pal := [(0, 0x0F)] }
    let q := (ppuTick rendering).ppu
    rendering.ppu.renderingEnabled = true ∧
    (q.t, q.x, q.w, q.ctrl, q.mask, q.dataBuffer) = (0x1234, 5, true, 0x04, 0x18, 0xA5) ∧
    (q.oam, q.nt, q.pal) = ([(0, 1)], [(0, 0x42)], [(0, 0x0F)]) ∧
    (ppuTick (ppuAt 241 0 0 0x80)).dma.active = false ∧ (ppuTick (ppuAt 241 0 0 0x80)).fatal = none := by decide

/-- Both groups of fetch cycles at their ends; the cycles beside them, line 240 and rendering disabled hold. -/
theorem witness_BackgroundPipelineFetches :
    let fetching := fun (scanline : Int) (cycle : Nat) (mask : Byte) => onRenderingLine (ppuAt scanline cycle mask 0) &&
      (decide (cycle ≤ 255) || (decide (320 ≤ cycle) && decide (cycle ≤ 335)))
    [((-1 : Int), 0), (239, 255), (0, 320), (239, 335)].all (fun x => fetching x.1 x.2 0x08) = true ∧
    [((0 : Int), 256), (0, 319), (239, 336), (240, 0)].all (fun x => !fetching x.1 x.2 0x08) = true ∧
    fetching 0 0 0x00 = false := by decide

/-- R296: `bg <- (bg & $FF00) | latch`, over a low byte that is not empty. -/
theorem test_shift_register_load :
    loadLow 0xA5FF 0x3C = 0xA53C ∧ loadLow 0x00FF (spreadBit false) = 0 ∧ loadLow 0xFF00 (spreadBit true) = 0xFFFF := by
  decide

theorem witness_NmiOnlyAtVblankEntry :
    let nmi := fun s : State => decide (s.ppu.scanline = 241) && decide (s.ppu.cycle = 0) && s.ppu.ctrl.getLsbD 7
    nmi (ppuAt 241 0 0 0x80) = true ∧ nmi (ppuAt 241 0 0 0x7F) = false ∧ nmi (ppuAt 241 1 0 0x80) = false := by decide

theorem witness_StatusEventsAtTheirPositions :
    let set := ppuAt 241 0 0 0
    let clear := (ppuAt (-1) 0 0 0).setPpu { (ppuAt (-1) 0 0 0).ppu with status := 0xE0 }
    let other := (ppuAt 240 0 0 0).setPpu { (ppuAt 240 0 0 0).ppu with status := 0xE0 }
    (set.ppu.scanline = 241 ∧ set.ppu.cycle = 0) ∧
    (clear.ppu.scanline = -1 ∧ clear.ppu.cycle = 0 ∧ clear.ppu.status &&& 0x1F = 0) ∧
    (¬(other.ppu.scanline = 241 ∧ other.ppu.cycle = 0) ∧ ¬(other.ppu.scanline = -1 ∧ other.ppu.cycle = 0) ∧
      other.ppu.status.getLsbD 6 = true ∧ other.ppu.status.getLsbD 5 = true ∧ 240 ≤ other.ppu.scanline) ∧
    (let visible := fun s : State =>
        decide (0 ≤ s.ppu.scanline) && decide (s.ppu.scanline ≤ 239) && decide (s.ppu.cycle ≤ 255);
      visible (ppuAt 0 0 0x18 0) = true ∧ visible (ppuAt 239 255 0x18 0) = true ∧ visible (ppuAt 239 256 0x18 0) = false ∧
      visible (ppuAt (-1) 1 0x18 0) = false ∧ visible (ppuAt 240 0 0x18 0) = false) ∧
    (let evaluated := fun s : State => s.ppu.renderingEnabled && decide (0 ≤ s.ppu.scanline) &&
        decide (s.ppu.scanline ≤ 239) && decide (s.ppu.cycle = 255);
      evaluated (ppuAt 0 255 0x08 0) = true ∧ evaluated (ppuAt 239 255 0x10 0x20) = true ∧
      evaluated (ppuAt 239 254 0x18 0) = false ∧ evaluated (ppuAt 0 255 0x00 0) = false) := by decide

theorem witness_EveryVisibleTickDrawsOnePixel :
    let visible := fun s : State =>
      decide (0 ≤ s.ppu.scanline) && decide (s.ppu.scanline ≤ 239) && decide (s.ppu.cycle ≤ 255)
    (visible (ppuAt 0 0 0 0) = true ∧ (ppuAt 0 0 0 0).ppu.renderingEnabled = false) ∧ visible (ppuAt 239 255 0x18 0) = true ∧
    visible (ppuAt 0 256 0 0) = false ∧ visible (ppuAt (-1) 0 0 0) = false ∧ visible (ppuAt 260 340 0 0) = false := by
  decide

theorem witness_ForegroundIsTheFirstOpaqueSlot :
    (foregroundPixel (withSlots SpriteSlot.cleared { patLo := 0x80, patHi := 0, attr := 0x20, x := 0 })).map (·.slot) =
      some 1 ∧ foregroundPixel Ppu.reset = none := by decide

theorem witness_MultiplexerAndSpriteZeroHit :
    (Ppu.reset.mask.getLsbD 3 = false ∧ ({ Ppu.reset with mask := 0x08 } : Ppu).mask.getLsbD 3 = true) ∧
    ({ pal := 3, px := 0 } : Pixel).px = 0 ∧ ({ pal := 0, px := 1 } : Pixel).px ≠ 0 := by decide

/-- Sixty-four matches: the eighth has position 7. -/
theorem witness_SpriteEvaluationKeepsTheFirstEight :
    let p : Ppu := { Ppu.reset with scanline := 7 }
    Memory.wf 0 32 p.secOam ∧
    ((List.range 64).filter fun n => decide (((Memory.read p.oam (4 * n)).toNat : Int) ≤ p.scanline) &&
      decide (p.scanline < ((Memory.read p.oam (4 * n)).toNat : Int) + 8))[7]? = some 7 := by decide

/-- Ticks of each clause: before cycle 255, at it, and outside the visible ones. -/
theorem witness_SpriteSlotsFollowTheirTicks :
    let active := fun s : State => s.ppu.renderingEnabled && decide (0 ≤ s.ppu.scanline) &&
      decide (s.ppu.scanline ≤ 239) && decide (s.ppu.cycle ≤ 255)
    (active (ppuAt 0 0 0x08 0) = true ∧ active (ppuAt 239 254 0x10 0) = true) ∧
    (active (ppuAt 0 255 0x18 0) = true ∧ active (ppuAt 239 255 0x18 0x20) = true) ∧
    (active (ppuAt 0 0 0x00 0) = false ∧ active (ppuAt 0 256 0x18 0) = false ∧ active (ppuAt 240 0 0x18 0) = false ∧
      active (ppuAt (-1) 0 0x18 0) = false) := by decide

/-- The last row of an 8x8 and of an 8x16 sprite, whose entry of secondary OAM has Y 0. -/
theorem witness_SpriteFetchBuildsTheSlot :
    let height := fun p : Ppu => if p.ctrl.getLsbD 5 then 16 else 8
    let small : Ppu := { Ppu.reset with scanline := 7 }
    let tall : Ppu := { Ppu.reset with scanline := 15, ctrl := 0x20 }
    (7 < height small ∧ small.scanline = ((Memory.read small.secOam 0).toNat : Int) + 7) ∧
    (15 < height tall ∧ tall.scanline = ((Memory.read tall.secOam 0).toNat : Int) + 15) := by decide

/-- A page that is registers, one that is joypad ports and cartridge. -/
theorem witness_DmaReadsAnyPageThroughTheBus :
    cpuTarget (mkAddr 0x20 0x07) = .ppuRegister 7 ∧ cpuTarget (mkAddr 0x40 0x1F) ≠ .cartridge ∧
    cpuTarget (mkAddr 0x40 0x20) = .cartridge ∧ ({ State.reset with g := 9 } : State).g % 3 = 0 := by decide

/-- The last RAM page and the first and last pages of the cartridge alone, started in an even and in an odd CPU tick. -/
theorem witness_DmaCopiesOnePage :
    ((0x1F : Byte) ≤ 0x1F ∧ (0x41 : Byte) ≤ 0x41 ∧ (0x41 : Byte) ≤ 0xFF) ∧ Memory.wf 0 256 Ppu.reset.oam ∧
    (({ State.reset with g := 6 } : State).g % 3 = 0 ∧ ({ State.reset with g := 6 } : State).g / 3 % 2 = 0) ∧
    (({ State.reset with g := 9 } : State).g % 3 = 0 ∧ ({ State.reset with g := 9 } : State).g / 3 % 2 ≠ 0) := by decide

theorem witness_EffectiveAddresses :
    (fetchBytes 1 (small [0x34, 0x12] cpu0 [])).1 = [0x34] ∧
    (fetchBytes 2 (small [0x34, 0x12] cpu0 [])).1 = [loByte 0x1234, hiByte 0x1234] := by decide

theorem witness_LoadsTakeTheOperandByte :
    ((Instr.ldaImm 0xFF).operand = .src (.imm 0xFF) ∧ (Instr.ldaImm 0xFF).operation = .lda) ∧
    ((Instr.ldxZpy 0xFF).operand = .src (.mem (.zpy 0xFF)) ∧ (Instr.ldxZpy 0xFF).operation = .ldx) ∧
    ((Instr.ldyAbx 0xFFFF).operand = .src (.mem (.abx 0xFFFF)) ∧ (Instr.ldyAbx 0xFFFF).operation = .ldy) := by decide

/-- Each store in RAM, and an absolute store at the ends of each device range. -/
theorem witness_StoresWriteTheirTarget :
    ((Instr.staAbs 0x1FFF).operand = .src (.mem (.abs 0x1FFF)) ∧
      storeValue (Instr.staAbs 0x1FFF).operation Cpu.reset = some 0 ∧ Memory.wf 0 2048 State.reset.ram ∧
      (resolve (.abs 0x1FFF) State.reset).ea ≤ 0x1FFF) ∧
    ((Instr.stxZpy 0xFF).operand = .src (.mem (.zpy 0xFF)) ∧
      storeValue (Instr.stxZpy 0xFF).operation Cpu.reset = some 0 ∧ (resolve (.zpy 0xFF) State.reset).ea ≤ 0x1FFF) ∧
    ((Instr.styZp 0).operand = .src (.mem (.zp 0)) ∧ storeValue (Instr.styZp 0).operation Cpu.reset = some 0 ∧
      (resolve (.zp 0) State.reset).ea ≤ 0x1FFF) ∧
    ([0x2000, 0x3FFF, 0x4000, 0x4014, 0x4016, 0x4017, 0x401F] : List Addr).all (fun a =>
      decide ((Instr.staAbs a).operand = .src (.mem (.abs a))) &&
      decide (storeValue (Instr.staAbs a).operation Cpu.reset = some 0) &&
      decide (0x2000 ≤ (resolve (.abs a) State.reset).ea) && decide ((resolve (.abs a) State.reset).ea ≤ 0x401F)) = true := by
  decide

/-- V32 at the lowest cartridge address, and DEC at the highest: it reads $00 and would write $FF. -/
theorem witness_CartridgeWritesAreFatal :
    ((Instr.staAbs 0x4020).operand = .src (.mem (.abs 0x4020)) ∧ 0x4020 ≤ (resolve (.abs 0x4020) State.reset).ea ∧
      storeValue (Instr.staAbs 0x4020).operation Cpu.reset = some 0) ∧
    ((Instr.decAbs 0xFFFF).operand = .src (.mem (.abs 0xFFFF)) ∧ 0x4020 ≤ (resolve (.abs 0xFFFF) State.reset).ea ∧
      modifyResult (Instr.decAbs 0xFFFF).operation (State.reset.cpu.flag .c)
        (Memory.read State.reset.fixed.program 0xFFFF).toNat = some (0xFF : Byte).toNat) := by decide

theorem witness_StackInstructionsUseTheStackCell : Memory.wf 0 2048 State.reset.ram := by decide

/-- V47, V49, V51. -/
theorem witness_LogicalOperationsCombineBits :
    let bits := fun (f : Bool → Bool → Bool) (a m r : Byte) =>
      (List.range 8).all fun k => r.getLsbD k == f (a.getLsbD k) (m.getLsbD k)
    ((Instr.andImm 0x0F).operand = .src (.imm 0x0F) ∧ (Instr.andImm 0x0F).operation = .and ∧
      bits and 0xF0 0x0F 0x00 = true) ∧
    ((Instr.oraImm 0x80).operand = .src (.imm 0x80) ∧ (Instr.oraImm 0x80).operation = .ora ∧
      bits or 0x01 0x80 0x81 = true) ∧
    ((Instr.eorImm 0xFF).operand = .src (.imm 0xFF) ∧ (Instr.eorImm 0xFF).operation = .eor ∧
      bits bne 0xFF 0xFF 0x00 = true) := by decide

theorem witness_BitTestsTheByte :
    (Instr.bitAbs 0x2002).operation = .bit ∧ (Instr.bitAbs 0x2002).operand = .src (.mem (.abs 0x2002)) := by decide

theorem witness_AdcAddsWithCarry :
    (Instr.adcIzy 0xFF).operation = .adc ∧ (Instr.adcIzy 0xFF).operand = .src (.mem (.izy 0xFF)) := by decide

theorem witness_SbcSubtractsWithBorrow :
    (Instr.sbcIzx 0xFF).operation = .sbc ∧ (Instr.sbcIzx 0xFF).operand = .src (.mem (.izx 0xFF)) := by decide

theorem witness_DecimalFlagIsInert :
    (Instr.adcImm 0x01).operation = .adc ∧ (Instr.sbcAby 0xFFFF).operation = .sbc := by decide

theorem witness_ComparesSetFlagsOnly :
    ((Instr.cmpImm 0x40).operand = .src (.imm 0x40) ∧ (Instr.cmpImm 0x40).operation = .cmp) ∧
    ((Instr.cpxZp 0xFF).operand = .src (.mem (.zp 0xFF)) ∧ (Instr.cpxZp 0xFF).operation = .cpx) ∧
    ((Instr.cpyAbs 0xFFFF).operand = .src (.mem (.abs 0xFFFF)) ∧ (Instr.cpyAbs 0xFFFF).operation = .cpy) := by decide

/-- The counts at both ends: from $FF to $00 and back. -/
theorem witness_RegisterCountsWrap :
    (0x00 : Byte).toNat = ((0xFF : Byte).toNat + 1) % 256 ∧ (0xFF : Byte).toNat = ((0x00 : Byte).toNat + 255) % 256 := by
  decide

/-- Each of the six operations on a byte of RAM that holds $00, and at $401F, the last address that does not stop; the
accumulator forms on V87, V90, V92, V95. -/
theorem witness_ModifyInstructionsWriteBack :
    let meets := fun (i : Instr) (a : Addr) (r : Byte) =>
      decide (i.operand = .src (.mem (.abs a))) &&
      decide (modifyResult i.operation (State.reset.cpu.flag .c) (memRead a State.reset).1.toNat = some r.toNat) &&
      decide ((resolve (.abs a) State.reset).ea ≤ 0x401F)
    (meets (.incAbs 0x1FFF) 0x1FFF 0x01 && meets (.decAbs 0) 0 0xFF && meets (.aslAbs 0) 0 0 && meets (.lsrAbs 0) 0 0 &&
      meets (.rolAbs 0) 0 0 && meets (.rorAbs 0x401F) 0x401F 0) = true ∧ Memory.wf 0 2048 State.reset.ram ∧
    (Instr.aslAcc.operand = .src .acc ∧ modifyResult Instr.aslAcc.operation false 0x81 = some (0x02 : Byte).toNat) ∧
    (Instr.lsrAcc.operand = .src .acc ∧ modifyResult Instr.lsrAcc.operation false 0x01 = some (0x00 : Byte).toNat) ∧
    (Instr.rolAcc.operand = .src .acc ∧ modifyResult Instr.rolAcc.operation true 0x80 = some (0x01 : Byte).toNat) ∧
    (Instr.rorAcc.operand = .src .acc ∧ modifyResult Instr.rorAcc.operation true 0x01 = some (0x80 : Byte).toNat) := by
  decide

theorem witness_JumpsCallsAndReturns : Memory.wf 0 2048 State.reset.ram := by decide

theorem witness_CallsAndInterruptsReturn :
    Memory.wf 0 2048 State.reset.ram ∧
    (∃ t, exec (.jsr 0x9000) State.reset = .next t ∧ ∃ u, exec .rts t = .next u) ∧
    (∃ t, exec .brk State.reset = .next t ∧ ∃ u, exec .rti t = .next u) ∧
    (∃ u, exec .rti (enterNmi State.reset) = .next u) :=
  ⟨rfl, ⟨_, rfl, _, rfl⟩, ⟨_, rfl, _, rfl⟩, ⟨_, rfl⟩⟩

theorem witness_BranchesTestTheirFlag :
    (Instr.bne 0x80).operand = .rel 0x80 ∧ branchTest (Instr.bne 0x80).operation = some (.z, false) ∧
    (Instr.bvs 0x7F).operand = .rel 0x7F ∧ branchTest (Instr.bvs 0x7F).operation = some (.v, true) := by decide

theorem witness_FlagInstructionsWriteOneFlag :
    (Instr.sed, Flag.d, true) ∈ [(Instr.clc, Flag.c, false), (.sec, .c, true), (.cli, .i, false), (.sei, .i, true),
      (.cld, .d, false), (.sed, .d, true), (.clv, .v, false)] := by decide

theorem witness_BrkAndNmiEnterTheirVectors : Memory.wf 0 2048 State.reset.ram := by decide

theorem witness_NopAndUndefinedOpcodesDoNothing :
    (entryState .nop .imp).fixed.params.undefOp.operation = .nop ∧ (entryState .nop .imp).fixed.params.undefOp.mode = .imp ∧
    (entryState .und .imp).fixed.params.undefOp.operation = .und ∧
    (entryState .und .imp).fixed.params.undefOp.mode = .imp := by decide

theorem witness_EveryInstructionLoadsItsCost :
    State.reset.Running ∧ ∃ t, exec (.ldaImm 0x0A) State.reset = .next t ∧ t.Running := ⟨rfl, _, rfl, rfl⟩

end Sys2Proof.Tests
end

section
/-! PROOF. Status bit 5 (10_state.md R26): every part of a step that writes `P` leaves bit 5 as it is or sets it, so no
step clears it. The parts are those of `GlobalTick` (52_clock_dma.md R340): the PPU tick with its NMI entry, the DMA unit,
the fetch, the meaning of the instruction, the audio tick. -/

namespace Sys2Proof.Machine

/-- Status bit 5 is 1 (10_state.md R26). -/
def BitFiveSet (s : State) : Prop := s.cpu.flag .u = true

/-- A next state that a result answers has status bit 5 set. -/
def LeavesBitFive (r : Result) : Prop := ∀ t, r = .next t → BitFiveSet t

/-! Flags through the state's operations -/

@[simp] theorem State.mapCpu_cpu (f : Cpu → Cpu) (s : State) : (s.mapCpu f).cpu = f s.cpu := rfl

@[simp] theorem State.charge_flag (n : Nat) (f : Flag) (s : State) : (s.charge n).cpu.flag f = s.cpu.flag f := rfl

@[simp] theorem State.costing_flag (n : Nat) (f : Flag) (s : State) : (s.costing n).cpu.flag f = s.cpu.flag f := by
  unfold State.costing
  split <;> rfl

@[simp] theorem pushAddr_flag (w : Addr) (f : Flag) (s : State) : (pushAddr w s).cpu.flag f = s.cpu.flag f := rfl

@[simp] theorem pull_flag (f : Flag) (s : State) : (pull s).2.cpu.flag f = s.cpu.flag f := rfl

@[simp] theorem pullAddr_flag (f : Flag) (s : State) : (pullAddr s).2.cpu.flag f = s.cpu.flag f := rfl

@[simp] theorem read16_cpu (a : Addr) (s : State) : (read16 a s).2.cpu = s.cpu := by
  simp [read16]

/-- Taking an interrupt sets `I` and leaves every other live flag alone (49_system.md R235, 60_exceptions.md R377). -/
theorem enterInterrupt_flag (vector ret : Addr) (status : Byte) (f : Flag) (s : State) :
    (enterInterrupt vector ret status s).cpu.flag f = if f = .i then true else s.cpu.flag f := by
  simp [enterInterrupt, Cpu.flag_setFlag]

/-- The fetch stage reads no register but `A` and writes none (40_addressing.md R134). -/
@[simp] theorem operandByte_cpu (r : Resolution) (s : State) : (operandByte r s).2.cpu = s.cpu := by
  unfold operandByte
  split <;> simp

/-- A read operation writes at most the flags N, V, Z and C. -/
theorem readEffect_keepsBitFive {op : Operation} {f : Byte → Cpu → Cpu} (hf : readEffect op = some f) (m : Byte)
    (c : Cpu) : (f m c).flag .u = c.flag .u := by
  cases op <;> cases hf <;>
    simp [Cpu.lda, Cpu.ldx, Cpu.ldy, Cpu.and, Cpu.ora, Cpu.eor, Cpu.bitTest, Cpu.adc, Cpu.sbc, Cpu.cmp, Cpu.cpx,
      Cpu.cpy, Cpu.compare, Cpu.flag_setZN, Cpu.flag_setFlag]

/-- A read-modify-write operation writes at most the flag C before its write. -/
theorem modifyEffect_keepsBitFive {op : Operation} {f : (Byte → Cpu → Cpu) × (Byte → Cpu → Byte)}
    (hf : modifyEffect op = some f) (b : Byte) (c : Cpu) : (f.1 b c).flag .u = c.flag .u := by
  cases op <;> cases hf <;> simp [Cpu.flag_setFlag]

/-! The shapes of an instruction -/

theorem leavesBitFive_next {s : State} (h : BitFiveSet s) : LeavesBitFive (.next s) := by
  rintro _ ⟨⟩
  exact h

/-- Two results that answer states with the same bit 5 leave it set together. -/
theorem leavesBitFive_of_same {p q : Result} {t u : State} (hp : p = .next t) (hq : q = .next u)
    (hu : u.cpu.flag .u = t.cpu.flag .u) (h : LeavesBitFive q) : LeavesBitFive p :=
  hp ▸ leavesBitFive_next (hu.symm.trans (h u hq))

theorem readInstr_leavesBitFive {op : Operation} {f : Byte → Cpu → Cpu} (hf : readEffect op = some f) (r : Source)
    (base : Nat) {s : State} (h : BitFiveSet s) : LeavesBitFive (readInstr r base f s) := by
  rw [readInstr_eq]
  exact leavesBitFive_next ((readEffect_keepsBitFive hf _ _).trans h)

theorem operate_read_leavesBitFive {op : Operation} {f : Byte → Cpu → Cpu} (hf : readEffect op = some f)
    (r : Resolution) (base : Nat) {s : State} (h : BitFiveSet s) : LeavesBitFive (operate op r base s) := by
  rw [operate_read hf]
  refine leavesBitFive_next ?_
  rw [BitFiveSet, State.charge_flag, State.mapCpu_cpu, readEffect_keepsBitFive hf, operandByte_cpu]
  exact h

theorem registerInstr_leavesBitFive {f : Cpu → Cpu} (hf : ∀ c, (f c).flag .u = c.flag .u) (base : Nat) {s : State}
    (h : BitFiveSet s) : LeavesBitFive (registerInstr base f s) :=
  leavesBitFive_next ((hf s.cpu).trans h)

theorem shiftAcc_leavesBitFive (f : Bool → Byte → ShiftResult) (base : Nat) {s : State} (h : BitFiveSet s) :
    LeavesBitFive (shiftAcc f base s) :=
  registerInstr_leavesBitFive (fun c => by simp [Cpu.flag_setZN, Cpu.flag_setFlag]) base h

theorem branchTo_leavesBitFive (condition : Bool) (base : Nat) (target : Addr) {s : State} (h : BitFiveSet s) :
    LeavesBitFive (branchTo condition base target s) := by
  rw [branchTo_next]
  cases condition <;> exact leavesBitFive_next h

/-- A write leaves the CPU alone whether or not it raises the fatal condition, so only what follows it counts. -/
theorem writeThen_leavesBitFive (a : Addr) (v : Byte) {s : State} {rest : State → State} (h : BitFiveSet s)
    (hr : ∀ t, BitFiveSet t → BitFiveSet (rest t)) : LeavesBitFive (writeThen a v s rest) := by
  cases hw : memWrite a v s with
  | none =>
    rw [writeThen_fatal ((memWrite_eq_none_iff a v s).1 hw)]
    exact leavesBitFive_next h
  | some t =>
    rw [writeThen_some hw]
    refine leavesBitFive_next (hr t ?_)
    rw [BitFiveSet, (memWrite_frame hw).1]
    exact h

theorem writeBack_leavesBitFive (r : Resolution) (v : Byte) {s : State} {rest : State → State} (h : BitFiveSet s)
    (hr : ∀ t, BitFiveSet t → BitFiveSet (rest t)) : LeavesBitFive (writeBack r v s rest) := by
  unfold writeBack
  split
  · exact leavesBitFive_next (hr _ h)
  all_goals exact writeThen_leavesBitFive _ _ h hr

theorem storeAt_leavesBitFive (r : Resolution) (base : Nat) (v : Byte) {s : State} (h : BitFiveSet s) :
    LeavesBitFive (storeAt r base v s) :=
  writeBack_leavesBitFive r v h fun _ ht => ht

theorem operate_modify_leavesBitFive {op : Operation} {f : (Byte → Cpu → Cpu) × (Byte → Cpu → Byte)}
    (hf : modifyEffect op = some f) (r : Resolution) (base : Nat) {s : State} (h : BitFiveSet s) :
    LeavesBitFive (operate op r base s) := by
  rw [operate_modify hf, modifyAt]
  refine writeBack_leavesBitFive r _ ?_ fun t ht => ?_
  · rw [BitFiveSet, State.mapCpu_cpu, modifyEffect_keepsBitFive hf, operandByte_cpu]
    exact h
  · rw [BitFiveSet, State.charge_flag, State.mapCpu_cpu, Cpu.flag_setZN]
    exact ht

/-! The meaning of an instruction -/

/-- An operation on any operand leaves bit 5 set: what is pulled into `P` has it forced to 1 (42_transfer_stack.md R160,
49_system.md R237), and no other operation writes it. -/
theorem operate_leavesBitFive (op : Operation) (r : Resolution) (base : Nat) {s : State} (h : BitFiveSet s) :
    LeavesBitFive (operate op r base s) := by
  have register : ∀ f : Cpu → Cpu, (∀ c, (f c).flag .u = c.flag .u) → LeavesBitFive (registerInstr base f s) :=
    fun f hf => registerInstr_leavesBitFive hf base h
  cases op
  case plp => exact leavesBitFive_next (by simp [BitFiveSet, getFlag_pulledStatus])
  case rti => exact leavesBitFive_next (by simp [BitFiveSet, returnFromInterrupt, getFlag_pulledStatus])
  case brk => exact leavesBitFive_next (by simpa [BitFiveSet, enterBrk, enterInterrupt_flag] using h)
  case pla => exact leavesBitFive_next (by simpa [BitFiveSet, Cpu.flag_setZN] using h)
  case pha | php | jmp | jsr | rts | nop | und => exact leavesBitFive_next h
  case lda | ldx | ldy | and | ora | eor | bit | adc | sbc | cmp | cpx | cpy =>
    exact operate_read_leavesBitFive rfl r base h
  case sta | stx | sty => exact storeAt_leavesBitFive r base _ h
  case inc | dec | asl | lsr | rol | ror => exact operate_modify_leavesBitFive rfl r base h
  case bcc | bcs | beq | bne | bmi | bpl | bvc | bvs => exact branchTo_leavesBitFive _ base r.ea h
  case tax | tay | txa | tya | tsx | inx | iny | dex | dey =>
    exact register _ fun c => by simp [Cpu.flag_setZN]
  case txs => exact register _ fun _ => rfl
  case clc | sec | cli | sei | cld | sed | clv =>
    exact register _ fun c => by simp [Cpu.flag_setFlag]

theorem resolveMode_keepsBitFive (mode : Mode) {s : State} (h : BitFiveSet s) : BitFiveSet (resolveMode mode s).2 := by
  obtain ⟨⟨pc, hpc⟩, -⟩ := resolveMode_frame mode s
  rw [BitFiveSet, hpc]
  exact h

/-- Only an operation that reads its operand has an immediate form (30_encoding.md R109). -/
theorem readEffect_of_imm {i : Instr} {b : Byte} (hi : i.operand = .src (.imm b)) :
    ∃ f, readEffect i.operation = some f := by
  cases i <;> cases hi <;> exact ⟨_, rfl⟩

/-- Only a shift or a rotate has an accumulator form (30_encoding.md R109). -/
theorem shiftOf_of_acc {i : Instr} (hi : i.operand = .src .acc) : ∃ f, shiftOf i.operation = some f := by
  cases i <;> cases hi <;> exact ⟨_, rfl⟩

/-- Only a branch has a relative operand (30_encoding.md R109). -/
theorem branchTest_of_rel {i : Instr} {b : Byte} (hi : i.operand = .rel b) :
    ∃ f value, branchTest i.operation = some (f, value) := by
  cases i <;> cases hi <;> exact ⟨_, _, rfl⟩

/-- Only JMP has an indirect operand (30_encoding.md R109). -/
theorem eq_jmpInd_of_ind {i : Instr} {ptr : Addr} (hi : i.operand = .ind ptr) : i = .jmpInd ptr := by
  cases i <;> cases hi
  rfl

/-- Only an undefined opcode has the table's tag for one (30_encoding.md R110). -/
theorem eq_und_of_operation {i : Instr} (hi : i.operation = .und) : ∃ op, i = .und op := by
  cases i <;> cases hi
  exact ⟨_, rfl⟩

theorem execUnd_leavesBitFive (op : Byte) {s : State} (h : BitFiveSet s) : LeavesBitFive (exec (.und op) s) :=
  operate_leavesBitFive _ _ _ (resolveMode_keepsBitFive _ h)

theorem execJmpInd_leavesBitFive (ptr : Addr) {s : State} (h : BitFiveSet s) :
    LeavesBitFive (exec (.jmpInd ptr) s) := by
  refine leavesBitFive_next ?_
  simpa [BitFiveSet, resolveIndirect] using h

/-- The meaning of every instruction leaves bit 5 set, by the kind of its operand. -/
theorem exec_leavesBitFive (i : Instr) {s : State} (hs : s.Running) (h : BitFiveSet s) : LeavesBitFive (exec i s) := by
  cases hi : i.operand with
  | imp =>
    by_cases hu : i.operation = .und
    · obtain ⟨op, rfl⟩ := eq_und_of_operation hu
      exact execUnd_leavesBitFive op h
    · obtain ⟨t, ht, ho⟩ := operate_implied (by rw [Instr.mode, hi]; rfl) hu ⟨0, false, .none⟩ 0 s
      exact leavesBitFive_of_same ht ho (t.charge_flag 0 .u) (operate_leavesBitFive _ _ _ h)
  | src r =>
    cases r with
    | imm b =>
      obtain ⟨f, hf⟩ := readEffect_of_imm hi
      rw [exec_read hf hi]
      exact readInstr_leavesBitFive hf _ _ h
    | acc =>
      obtain ⟨f, hf⟩ := shiftOf_of_acc hi
      rw [exec_shiftAcc hf hi]
      exact shiftAcc_leavesBitFive f 2 h
    | mem m =>
      obtain ⟨t, ht, ho⟩ := operate_mem hs (r := inMemory m s) rfl rfl hi 0
      exact leavesBitFive_of_same ht ho (t.costing_flag 0 .u) (operate_leavesBitFive _ _ _ h)
  | rel b =>
    obtain ⟨f, value, hf⟩ := branchTest_of_rel hi
    rw [exec_branch hf hi]
    exact branchTo_leavesBitFive _ 2 _ h
  | ind ptr =>
    rw [eq_jmpInd_of_ind hi]
    exact execJmpInd_leavesBitFive ptr h

/-! The parts of a step -/

/-- Fetching an instruction writes no register but `pc`, and no fault. -/
theorem executeInstruction_leavesBitFive {s : State} (hs : s.Running) (h : BitFiveSet s) :
    LeavesBitFive (executeInstruction s) := by
  have fetched : (fetchInstr s).2.Running ∧ BitFiveSet (fetchInstr s).2 := by
    obtain ⟨hcpu, hfatal, -⟩ := fetchBytes_frame (fetchInstr s).1.length s
    rw [fetchInstr_state, State.Running, BitFiveSet, hcpu]
    exact ⟨hfatal.trans hs, h⟩
  exact exec_leavesBitFive _ fetched.1 fetched.2

/-- OAM DMA leaves the CPU's registers alone (52_clock_dma.md R348). -/
theorem dmaStep_cpu (s : State) : (dmaStep s).cpu = s.cpu := by
  unfold dmaStep
  split
  · split <;> rfl
  · split
    · rfl
    · simp [dmaRead]

theorem cpuTick_leavesBitFive {s : State} (hs : s.Running) (h : BitFiveSet s) : LeavesBitFive (cpuTick s) := by
  cases hd : s.dma.active with
  | true =>
    rw [cpuTick_dma hd]
    exact leavesBitFive_next (by rwa [BitFiveSet, dmaStep_cpu])
  | false =>
    by_cases hc : s.cpu.cyc ≤ 1
    · rw [cpuTick_execute hd hc]
      exact executeInstruction_leavesBitFive hs h
    · rw [cpuTick_count hd (by omega)]
      exact leavesBitFive_next h

theorem cpuStage_leavesBitFive {s : State} (hs : s.Running) (h : BitFiveSet s) : LeavesBitFive (cpuStage s) := by
  unfold cpuStage
  split
  · exact cpuTick_leavesBitFive hs h
  · exact leavesBitFive_next h

/-- The one status event that writes the CPU is the NMI entry, which sets `I` alone (60_exceptions.md R377). -/
theorem statusEvents_keepsBitFive {s : State} (h : BitFiveSet s) : BitFiveSet (statusEvents s) := by
  unfold statusEvents vblankEntry
  split
  · exact h
  · split
    · split
      · simpa [BitFiveSet, enterNmi, enterInterrupt_flag] using h
      · exact h
    · exact h

theorem ppuStage_keepsBitFive {s : State} (h : BitFiveSet s) : BitFiveSet (ppuStage s) := by
  obtain ⟨-, -, -, -, -, hcpu, -⟩ := ppuTick_frame s
  have : (ppuStage s).cpu = (statusEvents s).cpu := hcpu
  rw [BitFiveSet, this]
  exact statusEvents_keepsBitFive h

theorem ppuStage_running {s : State} (hs : s.Running) : (ppuStage s).Running := by
  obtain ⟨-, hfatal, -⟩ := ppuTick_frame s
  exact hfatal.trans hs

/-- Settles O12: the PPU's share and the CPU's share of a step leave status bit 5 set, and the audio share leaves the CPU
alone. -/
theorem noStepClearsStatusBitFive : Obligations.NoStepClearsStatusBitFive := by
  intro s t h hst
  obtain ⟨hs, u, hu, rfl⟩ := step_cases hst
  obtain ⟨hcpu, -⟩ := audioStage_frame u
  rw [hcpu]
  exact cpuStage_leavesBitFive (ppuStage_running hs) (ppuStage_keepsBitFive h) u hu

end Sys2Proof.Machine
end

section
/-! PROOF. The mirrors of RAM and of the PPU registers on the CPU bus (20_memory.md R63, R64): each access is stated once
through the cell or the register that the address reaches, and the obligations are read off. -/

namespace Sys2Proof.Machine

/-! RAM -/

/-- After a write of its cell, RAM reads the byte at every mirror and its old bytes elsewhere. -/
theorem ramAfterWrite_setRam (a : Addr) (v : Byte) {s : State} (hs : Memory.wf 0 2048 s.ram) :
    RamAfterWrite a v s (s.setRam (Memory.write s.ram (ramIndex a) v)) := by
  intro b hb
  simp only [byteAt, memRead_ram hb, State.setRam_ram, Memory.read_write hs, ramIndex_eq_iff]

theorem sameOutsideCpuAndRam_setRam (m : Memory) (s : State) : SameOutsideCpuAndRam s (s.setRam m) :=
  ⟨rfl, rfl, rfl, rfl, rfl, rfl, rfl⟩

/-- Settles O15: an access of $0000 to $1FFF is one of the cell `ramIndex`, which two addresses share exactly when they
are mirrors. -/
theorem ramIsMirrored : Obligations.RamIsMirrored := by
  intro a v s ha hs
  exact ⟨congrArg Prod.snd (memRead_ram ha s), _, memWrite_ram ha v s, ramAfterWrite_setRam a v hs, rfl,
    sameOutsideCpuAndRam_setRam _ s⟩

/-! PPU registers -/

/-- The three low bits of an address are its residue modulo 8. -/
theorem setWidth_and_seven (a : Addr) : (a &&& 7).setWidth 3 = BitVec.ofNat 3 (a.toNat % 8) := by
  have hmask : (a &&& 7).toNat = a.toNat % 8 := by
    rw [BitVec.toNat_and]
    exact Nat.and_two_pow_sub_one_eq_mod a.toNat 3
  rw [← hmask]
  rfl

/-- The PPU register of an address in $2000 to $3FFF, by its number. -/
theorem cpuTarget_ppu_mod {a : Addr} (h : 0x2000 ≤ a) (h' : a ≤ 0x3FFF) :
    cpuTarget a = .ppuRegister (BitVec.ofNat 3 (a.toNat % 8)) := by
  rw [cpuTarget_ppu h h', setWidth_and_seven]

/-- A read in $2000 to $3FFF is the read of the register (20_memory.md R64). -/
theorem memRead_ppu {a : Addr} (h : 0x2000 ≤ a) (h' : a ≤ 0x3FFF) (s : State) :
    memRead a s = ((ppuRegRead s.fixed (BitVec.ofNat 3 (a.toNat % 8)) s.ppu).1,
      s.setPpu (ppuRegRead s.fixed (BitVec.ofNat 3 (a.toNat % 8)) s.ppu).2) := by
  simp only [memRead, cpuTarget_ppu_mod h h']

/-- A write in $2000 to $3FFF is the write of the register (20_memory.md R64). -/
theorem memWrite_ppu {a : Addr} (h : 0x2000 ≤ a) (h' : a ≤ 0x3FFF) (v : Byte) (s : State) :
    memWrite a v s = some (s.setPpu (ppuRegWrite s.fixed (BitVec.ofNat 3 (a.toNat % 8)) v s.ppu)) := by
  simp only [memWrite, cpuTarget_ppu_mod h h']

/-- Settles O16: reads and writes name the address only through its residue modulo 8, so addresses that agree in it have
the same ones. -/
theorem ppuRegistersAreMirrored : Obligations.PpuRegistersAreMirrored := by
  intro a s h h'
  refine ⟨memRead_ppu h h' s, fun v => memWrite_ppu h h' v s, fun b hb hb' hab => ⟨?_, fun v => ?_⟩⟩
  · rw [memRead_ppu h h', memRead_ppu hb hb', hab]
  · rw [memWrite_ppu h h', memWrite_ppu hb hb', hab]

end Sys2Proof.Machine
end

section
/-! PROOF. JMP indirect (40_addressing.md R131, 47_jump_branch.md R206): the two addresses and the target of the jump as
numbers, and the one state its meaning leaves. -/

namespace Sys2Proof.Machine

/-- `hi ++ lo` is the number with `hi` in its high byte (00_scope.md R9). -/
theorem mkAddr_eq_ofNat (hi lo : Byte) : mkAddr hi lo = BitVec.ofNat 16 (256 * hi.toNat + lo.toNat) := by
  rw [Nat.mul_comm, ← mkAddr_toNat, BitVec.ofNat_toNat, BitVec.setWidth_eq]

/-- The address after `w` in the page of `w`, with the wrap at the page's end (40_addressing.md R131). -/
theorem mkAddr_hiByte_loByte_add_one (w : Addr) :
    mkAddr (hiByte w) (loByte w + 1) = BitVec.ofNat 16 (w.toNat / 256 * 256 + (w.toNat % 256 + 1) % 256) := by
  have hlo : (loByte w + 1).toNat = (w.toNat % 256 + 1) % 256 := by
    rw [BitVec.toNat_add, loByte_toNat]
    rfl
  rw [mkAddr_eq_ofNat, hiByte_toNat, hlo, Nat.mul_comm]

/-- The two pointer reads, their addresses and the target written as numbers (40_addressing.md R131). -/
theorem resolveIndirect_eq (ptr : Addr) (s : State) :
    resolveIndirect ptr s =
      let lo := memRead ptr s
      let hi := memRead (BitVec.ofNat 16 (ptr.toNat / 256 * 256 + (ptr.toNat % 256 + 1) % 256)) lo.2
      (BitVec.ofNat 16 (256 * hi.1.toNat + lo.1.toNat), hi.2) := by
  simp only [resolveIndirect, mkAddr_hiByte_loByte_add_one]
  rw [mkAddr_eq_ofNat]

/-- JMP indirect leaves the state after its pointer reads, with only `pc` and `cyc` of the CPU loaded
(47_jump_branch.md R206). -/
theorem exec_jmpInd_eq (ptr : Addr) (s : State) :
    exec (.jmpInd ptr) s =
      .next ((resolveIndirect ptr s).2.setCpu { s.cpu with pc := (resolveIndirect ptr s).1, cyc := 5 }) := by
  have hcpu : (resolveIndirect ptr s).2.cpu = s.cpu := by simp [resolveIndirect]
  rw [← hcpu]
  rfl

/-- Settles O54: the second pointer read is at the next address of the pointer's page, and a bus read changes neither the
CPU nor RAM nor the cartridge. -/
theorem indirectJumpStaysInThePage : Obligations.IndirectJumpStaysInThePage := by
  intro s ptr lo hi
  have hram : hi.2.ram = s.ram := by rw [memRead_ramKept, memRead_ramKept]
  have hfixed : hi.2.fixed = s.fixed := by rw [memRead_fixed, memRead_fixed]
  refine ⟨hi.2.setCpu { s.cpu with pc := BitVec.ofNat 16 (256 * hi.1.toNat + lo.1.toNat), cyc := 5 }, ?_,
    ⟨⟨rfl, rfl, rfl, rfl, rfl, rfl, rfl⟩, rfl⟩, memoryKept_of_eq hram hfixed, rfl⟩
  rw [exec_jmpInd_eq, resolveIndirect_eq]

end Sys2Proof.Machine
end

section
/-! PROOF. The loads LDA, LDX, LDY (41_load_store.md R141, R142, R143): one effect on the CPU, with the register that
takes the byte chosen by the operation, and the one state an instruction that reads its operand leaves. -/

namespace Sys2Proof.Machine

/-! Z and N -/

theorem znOf_setZN (v : Byte) (c : Cpu) : ZNOf v (c.setZN v) :=
  ⟨Cpu.flag_setZN .z v c, (Cpu.flag_setZN .n v c).trans (getLsbD_seven v)⟩

theorem sameFlagsBut_setZN (v : Byte) (c : Cpu) : SameFlagsBut [.z, .n] c (c.setZN v) := by
  intro f hf
  simp only [List.mem_cons, List.not_mem_nil, or_false, not_or] at hf
  obtain ⟨hz, hn⟩ := hf
  rw [Cpu.flag_setZN, if_neg hn, if_neg hz]

/-! Instructions that read their operand -/

/-- An operation that reads its operand leaves the CPU of its effect with the form's cost, and outside the CPU the state
after the read (40_addressing.md R134, R139). -/
theorem exec_read_registersAre {i : Instr} {r : Source} {f : Byte → Cpu → Cpu} (hf : readEffect i.operation = some f)
    (hr : i.operand = .src r) (s : State) :
    let d := f (fetchOperand r s).1 s.cpu
    ∃ t, exec i s = .next t ∧
      RegistersAre (fetchOperand r s).2 t d.a d.x d.y d.sp d.pc (patternCost i.operation i.mode + crossCost i s) ∧
      (∀ g, t.cpu.flag g = d.flag g) ∧ MemoryKept s t := by
  obtain ⟨-, -, hram, -, -, hfixed, -⟩ := fetchOperand_frame r s
  exact ⟨_, exec_read_eq hf hr s, ⟨⟨⟨rfl, rfl, rfl, rfl, rfl, rfl, rfl⟩, rfl⟩, rfl, rfl, rfl, rfl, rfl, rfl⟩,
    fun _ => rfl, memoryKept_of_eq hram hfixed⟩

/-! Loads -/

/-- The CPU with the register of a load taking the byte `m` (41_load_store.md R141, R142, R143). -/
def Cpu.load (op : Operation) (m : Byte) (c : Cpu) : Cpu :=
  { c with
    a := if op = .lda then m else c.a
    x := if op = .ldx then m else c.x
    y := if op = .ldy then m else c.y }

/-- A load writes its register, then Z and N from the same byte. -/
theorem readEffect_load {op : Operation} (h : op = .lda ∨ op = .ldx ∨ op = .ldy) :
    readEffect op = some fun m c => (c.load op m).setZN m := by
  obtain rfl | rfl | rfl := h <;> rfl

/-- Settles O40: a load is an operation that reads its operand, whose effect writes its register and then Z and N. -/
theorem loadsTakeTheOperandByte : Obligations.LoadsTakeTheOperandByte := by
  intro i r s hr hop m u
  obtain ⟨t, hexec, hregisters, hflags, hmemory⟩ := exec_read_registersAre (readEffect_load hop) hr s
  obtain ⟨hz, hn⟩ := znOf_setZN m (s.cpu.load i.operation m)
  exact ⟨t, hexec, hregisters, ⟨(hflags .z).trans hz, (hflags .n).trans hn⟩,
    fun f hf => (hflags f).trans (sameFlagsBut_setZN m (s.cpu.load i.operation m) f hf), hmemory⟩

end Sys2Proof.Machine
end

section
/-! PROOF. The transfers TAX, TAY, TXA, TYA, TSX, TXS (42_transfer_stack.md R151 to R156): what an instruction on the
register file alone leaves, and the same with Z and N from a byte; a transfer is one of the two. -/

namespace Sys2Proof.Machine

/-- An instruction on the register file alone leaves the CPU of its effect with its cost, and nothing else changes. -/
theorem registerInstr_registersAre (base : Nat) (f : Cpu → Cpu) (s : State) :
    let d := f s.cpu
    ∃ t, registerInstr base f s = .next t ∧ RegistersAre s t d.a d.x d.y d.sp d.pc base ∧ t.cpu.p = d.p :=
  ⟨_, rfl, ⟨⟨⟨rfl, rfl, rfl, rfl, rfl, rfl, rfl⟩, rfl⟩, rfl, rfl, rfl, rfl, rfl, rfl⟩, rfl⟩

/-- A register write `f` that keeps `P`, followed by `SetZN` of a byte of the old CPU, leaves the registers of `f`, Z and N
of the byte and every other flag (40_addressing.md R138). -/
theorem registerInstr_setZN_registersAre {f : Cpu → Cpu} (hf : ∀ c, (f c).p = c.p) (v : Cpu → Byte) (base : Nat)
    (s : State) :
    let d := f s.cpu
    ∃ t, registerInstr base (fun c => (f c).setZN (v c)) s = .next t ∧
      RegistersAre s t d.a d.x d.y d.sp d.pc base ∧ ZNOf (v s.cpu) t.cpu ∧ SameFlagsBut [.z, .n] s.cpu t.cpu := by
  intro d
  obtain ⟨t, hnext, hregisters, hp⟩ := registerInstr_registersAre base (fun c => (f c).setZN (v c)) s
  have hflag : ∀ g, t.cpu.flag g = (d.setZN (v s.cpu)).flag g := fun g => congrArg (getFlag g) hp
  have hkept : ∀ g, d.flag g = s.cpu.flag g := fun g => congrArg (getFlag g) (hf s.cpu)
  obtain ⟨hz, hn⟩ := znOf_setZN (v s.cpu) d
  exact ⟨t, hnext, hregisters, ⟨(hflag .z).trans hz, (hflag .n).trans hn⟩,
    fun g hg => (hflag g).trans ((sameFlagsBut_setZN (v s.cpu) d g hg).trans (hkept g))⟩

/-- Settles O43: each transfer writes one register from another; TXS stops there, the other five set Z and N from the
source. -/
theorem transfersCopyOneRegister : Obligations.TransfersCopyOneRegister := by
  intro s c
  refine ⟨?tax, ?tay, ?txa, ?tya, ?tsx, ?txs⟩
  case tax => exact registerInstr_setZN_registersAre (f := fun c => c.setX c.a) (fun _ => rfl) (·.a) 2 s
  case tay => exact registerInstr_setZN_registersAre (f := fun c => c.setY c.a) (fun _ => rfl) (·.a) 2 s
  case txa => exact registerInstr_setZN_registersAre (f := fun c => c.setA c.x) (fun _ => rfl) (·.x) 2 s
  case tya => exact registerInstr_setZN_registersAre (f := fun c => c.setA c.y) (fun _ => rfl) (·.y) 2 s
  case tsx => exact registerInstr_setZN_registersAre (f := fun c => c.setX c.sp) (fun _ => rfl) (·.sp) 2 s
  case txs => exact registerInstr_registersAre 2 (fun c => c.setSp c.x) s

end Sys2Proof.Machine
end

section
/-! PROOF. The logical operations AND, ORA, EOR and BIT (43_logical.md R166 to R169): a byte is fixed by its eight bits, so
the bit-by-bit result of AND, ORA and EOR is the byte their effect writes, and BIT's Z is the test of every bit. -/

namespace Sys2Proof.Machine

/-! AND, ORA, EOR -/

/-- AND, ORA and EOR write the byte with the combined bits to the accumulator, then Z and N from it (43_logical.md R166,
R167, R168). -/
theorem readEffect_logical {op : Operation} {m result : Byte} {c : Cpu}
    (h : (op = .and ∧ ∀ k < 8, result.getLsbD k = (c.a.getLsbD k && m.getLsbD k)) ∨
      (op = .ora ∧ ∀ k < 8, result.getLsbD k = (c.a.getLsbD k || m.getLsbD k)) ∨
      (op = .eor ∧ ∀ k < 8, result.getLsbD k = (c.a.getLsbD k != m.getLsbD k))) :
    ∃ f, readEffect op = some f ∧ f m c = (c.setA result).setZN result := by
  obtain ⟨rfl, hbits⟩ | ⟨rfl, hbits⟩ | ⟨rfl, hbits⟩ := h
  · obtain rfl : result = c.a &&& m :=
      BitVec.eq_of_getLsbD_eq fun k hk => (hbits k hk).trans BitVec.getLsbD_and.symm
    exact ⟨Cpu.and, rfl, rfl⟩
  · obtain rfl : result = c.a ||| m :=
      BitVec.eq_of_getLsbD_eq fun k hk => (hbits k hk).trans BitVec.getLsbD_or.symm
    exact ⟨Cpu.ora, rfl, rfl⟩
  · obtain rfl : result = c.a ^^^ m :=
      BitVec.eq_of_getLsbD_eq fun k hk => (hbits k hk).trans BitVec.getLsbD_xor.symm
    exact ⟨Cpu.eor, rfl, rfl⟩

/-- Settles O45: AND, ORA and EOR are operations that read their operand, whose effect writes the accumulator and then Z
and N. -/
theorem logicalOperationsCombineBits : Obligations.LogicalOperationsCombineBits := by
  intro i r s result hr m u hop
  obtain ⟨f, hf, heffect⟩ := readEffect_logical hop
  obtain ⟨t, hexec, hregisters, hflags, hmemory⟩ := exec_read_registersAre hf hr s
  rw [heffect] at hregisters hflags
  obtain ⟨hz, hn⟩ := znOf_setZN result (s.cpu.setA result)
  exact ⟨t, hexec, hregisters, ⟨(hflags .z).trans hz, (hflags .n).trans hn⟩,
    fun g hg => (hflags g).trans (sameFlagsBut_setZN result (s.cpu.setA result) g hg), hmemory⟩

/-! BIT -/

/-- An operation whose page crossings cost nothing has no page-cross cycle (70_reset_and_hazards.md R421). -/
theorem crossCost_eq_zero {i : Instr} (h : pageCrossCosts i.operation = false) (s : State) : crossCost i s = 0 := by
  unfold crossCost
  split <;> simp [h]

theorem Cpu.flag_bitTest (g : Flag) (m : Byte) (c : Cpu) :
    (c.bitTest m).flag g =
      if g = .n then m.getLsbD 7 else if g = .v then m.getLsbD 6 else if g = .z then decide (c.a &&& m = 0)
      else c.flag g := by
  simp only [Cpu.bitTest, Cpu.flag_setFlag]

theorem sameFlagsBut_bitTest (m : Byte) (c : Cpu) : SameFlagsBut [.z, .v, .n] c (c.bitTest m) := by
  intro g hg
  simp only [List.mem_cons, List.not_mem_nil, or_false, not_or] at hg
  obtain ⟨hz, hv, hn⟩ := hg
  rw [Cpu.flag_bitTest, if_neg hn, if_neg hv, if_neg hz]

/-- BIT sets Z exactly when the accumulator and the byte share no bit (43_logical.md R169). -/
theorem Cpu.flag_z_bitTest_iff (m : Byte) (c : Cpu) :
    (c.bitTest m).flag .z = true ↔ ∀ k < 8, (c.a.getLsbD k && m.getLsbD k) = false := by
  calc (c.bitTest m).flag .z = true
    _ ↔ c.a &&& m = 0#8 := by rw [Cpu.flag_bitTest]; exact decide_eq_true_iff
    _ ↔ ∀ k < 8, (c.a.getLsbD k && m.getLsbD k) = false := by
      simp only [BitVec.eq_of_getLsbD_eq_iff, BitVec.getLsbD_and, BitVec.getLsbD_zero]

/-- Settles O46: BIT is an operation that reads its operand, whose effect writes three flags and no register. -/
theorem bitTestsTheByte : Obligations.BitTestsTheByte := by
  intro i r s hop hr m u
  have hf : readEffect i.operation = some Cpu.bitTest := by rw [hop]; rfl
  obtain ⟨t, hexec, hregisters, hflags, hmemory⟩ := exec_read_registersAre hf hr s
  rw [crossCost_eq_zero (by rw [hop]; rfl)] at hregisters
  refine ⟨t, hexec, hregisters, ?z, ?v, ?n, ?others, hmemory⟩
  case z => rw [hflags]; exact Cpu.flag_z_bitTest_iff m s.cpu
  case v => exact (hflags .v).trans (Cpu.flag_bitTest .v m s.cpu)
  case n => exact (hflags .n).trans (Cpu.flag_bitTest .n m s.cpu)
  case others => exact fun g hg => (hflags g).trans (sameFlagsBut_bitTest m s.cpu g hg)

end Sys2Proof.Machine
end

section
/-! PROOF. The arithmetic of ADC, SBC, CMP, CPX and CPY (44_arithmetic.md R176, R178 to R181): ADC and SBC leave the CPU
of one addition, so what they do to registers and flags is said once, and what is left of each is arithmetic. -/

namespace Sys2Proof.Machine

/-! The CPU after an addition -/

/-- The CPU that has taken an addition: the byte to `A`, C, V, and Z and N from the byte (44_arithmetic.md R176). -/
def Cpu.takeSum (sum : AddResult) (c : Cpu) : Cpu :=
  (((c.setFlag .c sum.carry).setFlag .v sum.overflow).setA sum.value).setZN sum.value

/-- ADC takes the sum with the operand. -/
theorem Cpu.adc_eq_takeSum (m : Byte) (c : Cpu) : c.adc m = c.takeSum (addWithCarry c.a m (c.flag .c)) := rfl

/-- SBC takes the sum with the operand's complement. -/
theorem Cpu.sbc_eq_takeSum (m : Byte) (c : Cpu) : c.sbc m = c.takeSum (subWithBorrow c.a m (c.flag .c)) := rfl

theorem Cpu.flag_takeSum (g : Flag) (sum : AddResult) (c : Cpu) :
    (c.takeSum sum).flag g =
      if g = .n then sum.value.getLsbD 7 else if g = .z then decide (sum.value = 0)
      else if g = .v then sum.overflow else if g = .c then sum.carry else c.flag g := by
  simp only [Cpu.takeSum, Cpu.flag_setZN, Cpu.setA_flag, Cpu.flag_setFlag]

theorem znOf_takeSum (sum : AddResult) (c : Cpu) : ZNOf sum.value (c.takeSum sum) := znOf_setZN sum.value _

theorem sameFlagsBut_takeSum (sum : AddResult) (c : Cpu) : SameFlagsBut [.c, .z, .v, .n] c (c.takeSum sum) := by
  intro g hg
  simp only [List.mem_cons, List.not_mem_nil, or_false, not_or] at hg
  obtain ⟨hc, hz, hv, hn⟩ := hg
  rw [Cpu.flag_takeSum, if_neg hn, if_neg hz, if_neg hv, if_neg hc]

/-- An operation that reads its operand and whose effect takes an addition leaves the addition's byte, carry and
overflow, Z and N of the byte, and every other register and flag. -/
theorem exec_takeSum_registersAre {i : Instr} {r : Source} {s : State} {f : Byte → Cpu → Cpu} {sum : AddResult}
    (hf : readEffect i.operation = some f) (hr : i.operand = .src r)
    (heffect : f (fetchOperand r s).1 s.cpu = s.cpu.takeSum sum) :
    ∃ t, exec i s = .next t ∧
      RegistersAre (fetchOperand r s).2 t sum.value s.cpu.x s.cpu.y s.cpu.sp s.cpu.pc
        (patternCost i.operation i.mode + crossCost i s) ∧
      t.cpu.flag .c = sum.carry ∧ t.cpu.flag .v = sum.overflow ∧ ZNOf sum.value t.cpu ∧
      SameFlagsBut [.c, .z, .v, .n] s.cpu t.cpu ∧ MemoryKept s t := by
  obtain ⟨t, hexec, hregisters, hflags, hmemory⟩ := exec_read_registersAre hf hr s
  rw [heffect] at hregisters hflags
  obtain ⟨hz, hn⟩ := znOf_takeSum sum s.cpu
  exact ⟨t, hexec, hregisters, (hflags .c).trans (Cpu.flag_takeSum .c sum s.cpu),
    (hflags .v).trans (Cpu.flag_takeSum .v sum s.cpu), ⟨(hflags .z).trans hz, (hflags .n).trans hn⟩,
    fun g hg => (hflags g).trans (sameFlagsBut_takeSum sum s.cpu g hg), hmemory⟩

/-! ADC -/

theorem addWithCarry_value_toNat (a m : Byte) (carryIn : Bool) :
    (addWithCarry a m carryIn).value.toNat = (a.toNat + m.toNat + carryIn.toNat) % 256 :=
  BitVec.toNat_ofNat _ 8

/-- The carry of an addition says that the sum does not fit in a byte (44_arithmetic.md R176). -/
theorem addWithCarry_carry (a m : Byte) (carryIn : Bool) :
    (addWithCarry a m carryIn).carry = decide (255 < a.toNat + m.toNat + carryIn.toNat) := rfl

/-- The overflow in terms of signs (44_arithmetic.md R176). -/
theorem addWithCarry_overflow (a m : Byte) (carryIn : Bool) :
    (addWithCarry a m carryIn).overflow =
      decide ((128 ≤ a.toNat ↔ 128 ≤ m.toNat) ∧
        ¬(128 ≤ (addWithCarry a m carryIn).value.toNat ↔ 128 ≤ a.toNat)) := by
  have hbits : (addWithCarry a m carryIn).overflow =
      ((a.getLsbD 7 == m.getLsbD 7) && ((addWithCarry a m carryIn).value.getLsbD 7 != a.getLsbD 7)) := rfl
  simp only [hbits, getLsbD_seven, bne, beq_eq_decide, decide_eq_decide, Bool.decide_and, decide_not]

/-- Settles O47: ADC is an operation that reads its operand, whose effect takes the sum with carry. -/
theorem adcAddsWithCarry : Obligations.AdcAddsWithCarry := by
  intro i r s hop hr a m u sum
  have hf : readEffect i.operation = some Cpu.adc := by rw [hop]; rfl
  obtain ⟨t, hexec, hregisters, hc, hv, hzn, hothers, hmemory⟩ :=
    exec_takeSum_registersAre hf hr (Cpu.adc_eq_takeSum m s.cpu)
  exact ⟨t, _, hexec, hregisters, addWithCarry_value_toNat a m (s.cpu.flag .c),
    hc.trans (addWithCarry_carry a m (s.cpu.flag .c)), hv.trans (addWithCarry_overflow a m (s.cpu.flag .c)), hzn,
    hothers, hmemory⟩

/-! SBC -/

/-- The complement of the operand as a number (44_arithmetic.md R178). -/
theorem xor_ff_toNat (m : Byte) : (m ^^^ 0xFF).toNat = 255 - m.toNat := by
  rw [show (0xFF : Byte) = BitVec.allOnes 8 from rfl, BitVec.xor_allOnes, BitVec.toNat_not]

/-- The byte of a subtraction is the difference with borrow modulo 256 (44_arithmetic.md R178). -/
theorem subWithBorrow_value_toNat (a m : Byte) (carryIn : Bool) :
    ((subWithBorrow a m carryIn).value.toNat : Int) =
      ((a.toNat : Int) - m.toNat - (1 - carryIn.toNat : Nat)) % 256 := by
  have hm := m.isLt
  have hcarry := carryIn.toNat_le
  rw [subWithBorrow, addWithCarry_value_toNat, xor_ff_toNat]
  omega

/-- The carry of a subtraction says that no borrow was needed (44_arithmetic.md R178). -/
theorem subWithBorrow_carry (a m : Byte) (carryIn : Bool) :
    (subWithBorrow a m carryIn).carry = decide (m.toNat + (1 - carryIn.toNat) ≤ a.toNat) := by
  have hm := m.isLt
  have hcarry := carryIn.toNat_le
  rw [subWithBorrow, addWithCarry_carry, xor_ff_toNat, decide_eq_decide]
  omega

/-- The overflow of a subtraction says that the signed difference with borrow is no signed byte (44_arithmetic.md
R178). -/
theorem subWithBorrow_overflow (a m : Byte) (carryIn : Bool) :
    (subWithBorrow a m carryIn).overflow =
      decide (a.toInt - m.toInt - (1 - carryIn.toNat : Nat) < -128 ∨
        127 < a.toInt - m.toInt - (1 - carryIn.toNat : Nat)) := by
  have ha := a.isLt
  have hm := m.isLt
  have hcarry := carryIn.toNat_le
  rw [subWithBorrow, addWithCarry_overflow, addWithCarry_value_toNat, xor_ff_toNat, decide_eq_decide,
    BitVec.toInt_eq_toNat_cond, BitVec.toInt_eq_toNat_cond]
  omega

/-- Settles O48: SBC is an operation that reads its operand, whose effect takes the sum with the operand's complement,
which is the difference with borrow. -/
theorem sbcSubtractsWithBorrow : Obligations.SbcSubtractsWithBorrow := by
  intro i r s hop hr a m u borrow
  have hf : readEffect i.operation = some Cpu.sbc := by rw [hop]; rfl
  obtain ⟨t, hexec, hregisters, hc, hv, hzn, hothers, hmemory⟩ :=
    exec_takeSum_registersAre hf hr (Cpu.sbc_eq_takeSum m s.cpu)
  exact ⟨t, _, hexec, hregisters, subWithBorrow_value_toNat a m (s.cpu.flag .c),
    hc.trans (subWithBorrow_carry a m (s.cpu.flag .c)), hv.trans (subWithBorrow_overflow a m (s.cpu.flag .c)), hzn,
    hothers, hmemory⟩

/-! CMP, CPX, CPY -/

/-- CMP, CPX and CPY compare their register with the operand (44_arithmetic.md R179, R180, R181). -/
theorem readEffect_compare {op : Operation} {reg : Byte} {c : Cpu}
    (h : (op = .cmp ∧ reg = c.a) ∨ (op = .cpx ∧ reg = c.x) ∨ (op = .cpy ∧ reg = c.y)) (m : Byte) :
    ∃ f, readEffect op = some f ∧ f m c = c.compare reg m := by
  obtain ⟨rfl, rfl⟩ | ⟨rfl, rfl⟩ | ⟨rfl, rfl⟩ := h
  · exact ⟨Cpu.cmp, rfl, rfl⟩
  · exact ⟨Cpu.cpx, rfl, rfl⟩
  · exact ⟨Cpu.cpy, rfl, rfl⟩

theorem Cpu.flag_compare (g : Flag) (reg m : Byte) (c : Cpu) :
    (c.compare reg m).flag g =
      if g = .n then (reg - m).getLsbD 7 else if g = .z then decide (reg - m = 0)
      else if g = .c then decide (m.toNat ≤ reg.toNat) else c.flag g := by
  simp only [Cpu.compare, Cpu.flag_setZN, Cpu.flag_setFlag]

theorem sameFlagsBut_compare (reg m : Byte) (c : Cpu) : SameFlagsBut [.c, .z, .n] c (c.compare reg m) := by
  intro g hg
  simp only [List.mem_cons, List.not_mem_nil, or_false, not_or] at hg
  obtain ⟨hc, hz, hn⟩ := hg
  rw [Cpu.flag_compare, if_neg hn, if_neg hz, if_neg hc]

/-- Z after a comparison says that the two bytes are equal (44_arithmetic.md R179). -/
theorem Cpu.flag_z_compare (reg m : Byte) (c : Cpu) : (c.compare reg m).flag .z = decide (reg = m) := by
  rw [Cpu.flag_compare]
  exact decide_eq_decide.mpr sub_eq_zero

/-- N after a comparison is the sign of the difference modulo 256 (44_arithmetic.md R179). -/
theorem Cpu.flag_n_compare (reg m : Byte) (c : Cpu) :
    (c.compare reg m).flag .n = decide (128 ≤ (reg.toNat + 256 - m.toNat) % 256) := by
  have hdifference : (reg - m).toNat = (reg.toNat + 256 - m.toNat) % 256 := by
    have hm := m.isLt
    rw [BitVec.toNat_sub]
    omega
  rw [← hdifference]
  exact (Cpu.flag_compare .n reg m c).trans (getLsbD_seven (reg - m))

/-- Settles O50: a comparison is an operation that reads its operand, whose effect writes C, Z and N and no register. -/
theorem comparesSetFlagsOnly : Obligations.ComparesSetFlagsOnly := by
  intro i r s reg hr hop m u
  obtain ⟨f, hf, heffect⟩ := readEffect_compare hop m
  obtain ⟨t, hexec, hregisters, hflags, hmemory⟩ := exec_read_registersAre hf hr s
  rw [heffect] at hregisters hflags
  refine ⟨t, hexec, hregisters, ?c, ?z, ?n, ?others, hmemory⟩
  case c => exact (hflags .c).trans (Cpu.flag_compare .c reg m s.cpu)
  case z => exact (hflags .z).trans (Cpu.flag_z_compare reg m s.cpu)
  case n => exact (hflags .n).trans (Cpu.flag_n_compare reg m s.cpu)
  case others => exact fun g hg => (hflags g).trans (sameFlagsBut_compare reg m s.cpu g hg)

end Sys2Proof.Machine
end

section
/-! PROOF. The register counts INX, INY, DEX, DEY (45_incdec.md R188 to R191): counting modulo 256 is adding or subtracting
one in a byte, and a count is a register write followed by Z and N from the byte written. -/

namespace Sys2Proof.Machine

theorem eq_add_one_of_toNat {v b : Byte} (h : v.toNat = (b.toNat + 1) % 256) : v = b + 1 :=
  BitVec.eq_of_toNat_eq (h.trans (BitVec.toNat_add b 1).symm)

/-- Subtracting one is adding 255 modulo 256 (45_incdec.md R190, R191). -/
theorem eq_sub_one_of_toNat {v b : Byte} (h : v.toNat = (b.toNat + 255) % 256) : v = b - 1 := by
  apply BitVec.eq_of_toNat_eq
  rw [h, BitVec.toNat_sub, Nat.add_comm]
  rfl

/-- Settles O51: each count writes its register and sets Z and N from the byte written, which the statement gives as a
number modulo 256. -/
theorem registerCountsWrap : Obligations.RegisterCountsWrap := by
  intro s v c
  refine ⟨?inx, ?iny, ?dex, ?dey⟩
  case inx =>
    intro h
    obtain rfl := eq_add_one_of_toNat h
    exact registerInstr_setZN_registersAre (f := fun c => c.setX (c.x + 1)) (fun _ => rfl) (·.x + 1) 2 s
  case iny =>
    intro h
    obtain rfl := eq_add_one_of_toNat h
    exact registerInstr_setZN_registersAre (f := fun c => c.setY (c.y + 1)) (fun _ => rfl) (·.y + 1) 2 s
  case dex =>
    intro h
    obtain rfl := eq_sub_one_of_toNat h
    exact registerInstr_setZN_registersAre (f := fun c => c.setX (c.x - 1)) (fun _ => rfl) (·.x - 1) 2 s
  case dey =>
    intro h
    obtain rfl := eq_sub_one_of_toNat h
    exact registerInstr_setZN_registersAre (f := fun c => c.setY (c.y - 1)) (fun _ => rfl) (·.y - 1) 2 s

end Sys2Proof.Machine
end

section
/-! PROOF. The flag instructions CLC, SEC, CLI, SEI, CLD, SED, CLV (48_flags.md R226 to R232): what an instruction that
writes one flag to a constant leaves, for any flag and constant; each of the seven is one. -/

namespace Sys2Proof.Machine

theorem sameFlagsBut_setFlag (f : Flag) (value : Bool) (c : Cpu) : SameFlagsBut [f] c (c.setFlag f value) := by
  intro g hg
  rw [Cpu.flag_setFlag, if_neg (mt List.mem_singleton.mpr hg)]

/-- An instruction whose effect writes one flag to a constant leaves every register, every other flag and all outside the
CPU as they are. -/
theorem registerInstr_setFlag_registersAre (f : Flag) (value : Bool) (base : Nat) (s : State) :
    ∃ t, registerInstr base (·.setFlag f value) s = .next t ∧
      RegistersAre s t s.cpu.a s.cpu.x s.cpu.y s.cpu.sp s.cpu.pc base ∧
      t.cpu.flag f = value ∧ SameFlagsBut [f] s.cpu t.cpu := by
  obtain ⟨t, hnext, hregisters, hp⟩ := registerInstr_registersAre base (·.setFlag f value) s
  have hflag : ∀ g, t.cpu.flag g = (s.cpu.setFlag f value).flag g := fun g => congrArg (getFlag g) hp
  have hwritten : (s.cpu.setFlag f value).flag f = value := (Cpu.flag_setFlag f f value s.cpu).trans (if_pos rfl)
  exact ⟨t, hnext, hregisters, (hflag f).trans hwritten,
    fun g hg => (hflag g).trans (sameFlagsBut_setFlag f value s.cpu g hg)⟩

/-- Settles O57: each of the seven rows is an instruction on the register file whose effect writes its flag to its
constant. -/
theorem flagInstructionsWriteOneFlag : Obligations.FlagInstructionsWriteOneFlag := by
  intro s i f value hrow
  have hexec : exec i s = registerInstr 2 (·.setFlag f value) s := by
    simp only [List.mem_cons, List.not_mem_nil, or_false, Prod.mk.injEq] at hrow
    obtain ⟨rfl, rfl, rfl⟩ | ⟨rfl, rfl, rfl⟩ | ⟨rfl, rfl, rfl⟩ | ⟨rfl, rfl, rfl⟩ | ⟨rfl, rfl, rfl⟩ | ⟨rfl, rfl, rfl⟩ |
      ⟨rfl, rfl, rfl⟩ := hrow <;> rfl
  rw [hexec]
  exact registerInstr_setFlag_registersAre f value 2 s

end Sys2Proof.Machine
end

section
/-! PROOF. The frame (51_ppu_rendering.md R326, R327): the frames presented and the position are together one clock,
which every PPU tick advances by one; where a run of ticks stands, and how often it presented a frame, is read off it. -/

namespace Sys2Proof.Machine

/-! Positions -/

/-- One of the 262 times 341 positions (10_state.md R40). -/
structure Ppu.LegalPosition (p : Ppu) : Prop where
  first : -1 ≤ p.scanline
  last : p.scanline ≤ 260
  cycle : p.cycle ≤ 340

theorem Ppu.LegalPosition.position_lt {p : Ppu} (h : p.LegalPosition) : p.position < 89342 := by
  obtain ⟨_, _, _⟩ := h
  unfold Ppu.position
  omega

/-- The number of a legal position determines its scanline and its cycle. -/
theorem Ppu.position_eq_iff {p : Ppu} (h : p.LegalPosition) {line : Int} {c : Nat} (hline : -1 ≤ line) (hc : c ≤ 340) :
    p.position = (line + 1).toNat * 341 + c ↔ p.scanline = line ∧ p.cycle = c := by
  obtain ⟨_, _, _⟩ := h
  unfold Ppu.position
  omega

/-! The frame clock -/

/-- The frames presented and the position, as one number of positions passed. -/
def State.frameClock (s : State) : Nat := 89342 * s.trace.count .presentFrame + s.ppu.position

/-- The advance moves the clock by one: at the last position the position number falls by 89,341 while one more frame is
presented (51_ppu_rendering.md R326). -/
theorem advancePosition_frameClock {s : State} (h : s.ppu.LegalPosition) :
    (advancePosition s).ppu.LegalPosition ∧ (advancePosition s).frameClock = s.frameClock + 1 := by
  obtain ⟨hfirst, hlast, hcycle⟩ := h
  rw [advancePosition_eq]
  unfold State.frameClock Ppu.position Ppu.afterAdvance
  by_cases hc : s.ppu.cycle < 340
  case pos =>
    simp only [hc, true_or, if_true]
    exact ⟨⟨hfirst, hlast, hc⟩, rfl⟩
  case neg =>
    by_cases hl : s.ppu.scanline < 260
    case pos =>
      simp only [hc, hl, or_true, if_true, if_false]
      exact ⟨⟨by dsimp only; omega, hl, Nat.zero_le _⟩, by omega⟩
    case neg =>
      simp only [hc, hl, or_self, if_false, List.count_cons_self]
      exact ⟨⟨Int.le_refl _, by dsimp only; omega, Nat.zero_le _⟩, by omega⟩

/-- The stages of a tick before its advance leave the position alone. -/
theorem Ppu.afterPixel_position (fixed : Fixed) (p : Ppu) :
    ((p.afterEvents.afterRender fixed).afterPixel fixed).scanline = p.scanline ∧
    ((p.afterEvents.afterRender fixed).afterPixel fixed).cycle = p.cycle := by
  rw [afterPixel_frame, afterRender_frame, afterEvents_frame]
  exact ⟨rfl, rfl⟩

/-- What a tick does before its advance writes neither the position nor `presentFrame` (51_ppu_rendering.md R291). -/
theorem ppuTick_eq_advancePosition (s : State) :
    ∃ t, ppuTick s = advancePosition t ∧ t.ppu.scanline = s.ppu.scanline ∧ t.ppu.cycle = s.ppu.cycle ∧
      t.trace.count .presentFrame = s.trace.count .presentFrame := by
  obtain ⟨hppu, hfixed, htrace, -⟩ := statusEvents_spec s
  obtain ⟨hline, hcycle⟩ := Ppu.afterPixel_position s.fixed s.ppu
  refine ⟨pixelStage (renderStage (statusEvents s)), rfl, ?_⟩
  rw [pixelStage_eq, renderStage_eq]
  simp only [State.setPpu_ppu, State.setPpu_fixed, State.setPpu_trace, hppu, hfixed, htrace]
  refine ⟨hline, hcycle, ?_⟩
  split
  · exact List.count_cons_of_ne (by simp)
  · rfl

theorem ppuTick_frameClock {s : State} (h : s.ppu.LegalPosition) :
    (ppuTick s).ppu.LegalPosition ∧ (ppuTick s).frameClock = s.frameClock + 1 := by
  obtain ⟨t, htick, hline, hcycle, hcount⟩ := ppuTick_eq_advancePosition s
  have ht : t.ppu.LegalPosition := ⟨hline ▸ h.first, hline ▸ h.last, hcycle ▸ h.cycle⟩
  have hclock : t.frameClock = s.frameClock := by
    simp only [State.frameClock, Ppu.position, hline, hcycle, hcount]
  rw [htick, ← hclock]
  exact advancePosition_frameClock ht

/-- `n` ticks advance the clock by `n`. -/
theorem ppuTicks_frameClock (n : Nat) {s : State} (h : s.ppu.LegalPosition) :
    (ppuTicks n s).ppu.LegalPosition ∧ (ppuTicks n s).frameClock = s.frameClock + n := by
  induction n generalizing s with
  | zero => exact ⟨h, rfl⟩
  | succ n ih =>
    obtain ⟨hlegal, hclock⟩ := ppuTick_frameClock h
    obtain ⟨hlegal', hclock'⟩ := ih hlegal
    exact ⟨hlegal', hclock'.trans (by omega)⟩

/-! What the clock says after `n` ticks -/

/-- The position after `n` ticks, modulo the length of a frame. -/
theorem ppuTicks_position (n : Nat) {s : State} (h : s.ppu.LegalPosition) :
    (ppuTicks n s).ppu.position = (s.ppu.position + n) % 89342 := by
  obtain ⟨hlegal, hclock⟩ := ppuTicks_frameClock n h
  have := hlegal.position_lt
  unfold State.frameClock at hclock
  omega

/-- The frames presented in `n` ticks: one for each full frame's worth of positions. -/
theorem ppuTicks_count_presentFrame (n : Nat) {s : State} (h : s.ppu.LegalPosition) :
    (ppuTicks n s).trace.count .presentFrame =
      s.trace.count .presentFrame + (s.ppu.position + n) / 89342 := by
  obtain ⟨hlegal, hclock⟩ := ppuTicks_frameClock n h
  have := hlegal.position_lt
  unfold State.frameClock at hclock
  omega

/-- The next tick after `n` ticks works at (241, 0), the position with number 82,522. -/
theorem ppuTicks_atVblank_iff (n : Nat) {s : State} (h : s.ppu.LegalPosition) :
    ((ppuTicks n s).ppu.scanline = 241 ∧ (ppuTicks n s).ppu.cycle = 0) ↔ (s.ppu.position + n) % 89342 = 82522 := by
  rw [← ppuTicks_position n h]
  exact (Ppu.position_eq_iff (ppuTicks_frameClock n h).1 (by decide) (by decide)).symm

/-- A whole frame of ticks ends where it began. -/
theorem ppuTicks_frame_returns {s : State} (h : s.ppu.LegalPosition) :
    (ppuTicks 89342 s).ppu.scanline = s.ppu.scanline ∧ (ppuTicks 89342 s).ppu.cycle = s.ppu.cycle := by
  rw [← Ppu.position_eq_iff (ppuTicks_frameClock _ h).1 h.first h.cycle, ppuTicks_position _ h, Nat.add_mod_right,
    Nat.mod_eq_of_lt h.position_lt]
  rfl

/-- One tick of a whole frame works at (241, 0): the one after the ticks that lead from the position to number 82,522. -/
theorem ppuTicks_frame_atVblank_once {s : State} (h : s.ppu.LegalPosition) :
    ∃ k < 89342, ((ppuTicks k s).ppu.scanline = 241 ∧ (ppuTicks k s).ppu.cycle = 0) ∧
      ∀ j < 89342, (ppuTicks j s).ppu.scanline = 241 → (ppuTicks j s).ppu.cycle = 0 → j = k := by
  have hlt := h.position_lt
  refine ⟨(82522 + 89342 - s.ppu.position) % 89342, Nat.mod_lt _ (by decide), ?_, ?_⟩
  · rw [ppuTicks_atVblank_iff _ h]
    omega
  · intro j hj hline hcycle
    have hat := (ppuTicks_atVblank_iff j h).mp ⟨hline, hcycle⟩
    omega

/-- Settles O14: a whole frame adds one multiple of 89,342 to the clock, so the position returns and one frame is
presented; from (0, 0), the position with number 341, 82,181 ticks lead to number 82,522 and 89,001 ticks to the end of
the frame. -/
theorem frameIs89342Ticks : Obligations.FrameIs89342Ticks := by
  refine ⟨?wholeFrame, ?fromOrigin⟩
  case wholeFrame =>
    intro s hfirst hlast hcycle
    have h : s.ppu.LegalPosition := ⟨hfirst, hlast, hcycle⟩
    obtain ⟨hline', hcycle'⟩ := ppuTicks_frame_returns h
    refine ⟨hline', hcycle', ppuTicks_frame_atVblank_once h, ?_⟩
    rw [ppuTicks_count_presentFrame _ h, Nat.add_div_right _ (by decide), Nat.div_eq_of_lt h.position_lt]
  case fromOrigin =>
    intro s hline hcycle
    have h : s.ppu.LegalPosition := ⟨by omega, by omega, by omega⟩
    have hpos : s.ppu.position = 341 := (Ppu.position_eq_iff h (by decide) (by decide)).mpr ⟨hline, hcycle⟩
    obtain ⟨hline', hcycle'⟩ := (ppuTicks_atVblank_iff 82181 h).mpr (by rw [hpos])
    refine ⟨hline', hcycle', ?_, ?_, ?_⟩
    · intro j hj
      rw [ppuTicks_atVblank_iff j h, hpos]
      omega
    · rw [ppuTicks_count_presentFrame _ h, hpos]
      rfl
    · rw [ppuTicks_count_presentFrame _ h, hpos]

end Sys2Proof.Machine
end

section
/-! PROOF. The decoder and the encoder (30_encoding.md): an instruction's encoding starts with an opcode whose table entry
takes the instruction's operand bytes, and a table entry makes an instruction whose encoding starts with its opcode. -/

namespace Sys2Proof.Machine

/-! Decoding an encoding -/

/-- The decoder on an opcode with a 16-bit operand as the encoder writes it, low byte first (30_encoding.md R103). -/
theorem decode_encode3 {op : Byte} {mk : Addr → Instr} (h : opcodeEntry op = .f3 mk) (w : Addr) (rest : List Byte) :
    decode (encode3 op w ++ rest) = .ok (mk w, rest) := by
  rw [show encode3 op w ++ rest = op :: loByte w :: hiByte w :: rest from rfl, decode_f3 h, mkAddr_hiByte_loByte]

/-- The table entry of an undefined opcode is the instruction `und` with that byte (30_encoding.md R110). -/
theorem opcodeEntry_und {op : Byte} (h : op ∈ undefinedOpcodes) : opcodeEntry op = .f1 (.und op) := by
  obtain ⟨i, hentry, -, -, -, hund⟩ | ⟨mk, -, hmk⟩ | ⟨mk, -, hmk⟩ := opcodeEntry_cases op
  · rw [hentry, hund.mpr h]
  · obtain ⟨-, -, hlength, hund⟩ := hmk 0
    rw [hund.mpr h] at hlength
    cases hlength
  · obtain ⟨-, -, hlength, hund⟩ := hmk 0
    rw [hund.mpr h] at hlength
    cases hlength

/-- Settles O1, by the three formats of an instruction: the opcode alone, with a byte, with an address. -/
theorem decodeOfEncodeIsTheInstruction : Obligations.DecodeOfEncodeIsTheInstruction := by
  intro i rest hi
  cases i
  case und op => exact decode_f1 (opcodeEntry_und (List.contains_iff_mem.mp hi)) rest
  case tax | tay | txa | tya | tsx | txs | pha | php | pla | plp | inx | iny | dex | dey | aslAcc | lsrAcc | rolAcc |
      rorAcc | rts | clc | sec | cli | sei | cld | sed | clv | brk | nop | rti =>
    exact decode_f1 rfl rest
  case ldaAbs w | ldaAbx w | ldaAby w | ldxAbs w | ldxAby w | ldyAbs w | ldyAbx w | staAbs w | staAbx w | staAby w |
      stxAbs w | styAbs w | andAbs w | andAbx w | andAby w | oraAbs w | oraAbx w | oraAby w | eorAbs w | eorAbx w |
      eorAby w | bitAbs w | adcAbs w | adcAbx w | adcAby w | sbcAbs w | sbcAbx w | sbcAby w | cmpAbs w | cmpAbx w |
      cmpAby w | cpxAbs w | cpyAbs w | incAbs w | incAbx w | decAbs w | decAbx w | aslAbs w | aslAbx w | lsrAbs w |
      lsrAbx w | rolAbs w | rolAbx w | rorAbs w | rorAbx w | jmpAbs w | jmpInd w | jsr w =>
    exact decode_encode3 rfl w rest
  all_goals exact decode_f2 rfl _ rest

/-! Encoding what was decoded -/

/-- A decoded instruction is well-formed, and its encoding is the bytes consumed (30_encoding.md R100, R111). -/
theorem encode_of_decode {bytes rest : List Byte} {i : Instr} (h : decode bytes = .ok (i, rest)) :
    i.WellFormed ∧ encode i ++ rest = bytes := by
  cases bytes with
  | nil => cases h
  | cons op tail =>
    obtain ⟨j, hentry, hbytes, hwf, -⟩ | ⟨mk, hentry, hmk⟩ | ⟨mk, hentry, hmk⟩ := opcodeEntry_cases op
    · rw [decode_f1 hentry] at h
      cases h
      exact ⟨hwf, by rw [hbytes]; rfl⟩
    · match tail with
      | [] => simp [decode, hentry] at h
      | b :: tail =>
        rw [decode_f2 hentry] at h
        cases h
        obtain ⟨hbytes, hwf, -⟩ := hmk b
        exact ⟨hwf, by rw [hbytes]; rfl⟩
    · match tail with
      | [] | [_] => simp [decode, hentry] at h
      | b1 :: b2 :: tail =>
        rw [decode_f3 hentry] at h
        cases h
        obtain ⟨hbytes, hwf, -⟩ := hmk (mkAddr b2 b1)
        exact ⟨hwf, by rw [hbytes, loByte_mkAddr, hiByte_mkAddr]; rfl⟩

/-- Three bytes hold an instruction, whose length is the bytes consumed and which is undefined exactly for the undefined
opcodes (30_encoding.md R104, R105, R110). -/
theorem decode_three_bytes (op b1 b2 : Byte) :
    ∃ i rest, decode [op, b1, b2] = .ok (i, rest) ∧ i.length + rest.length = 3 ∧
      (i = .und op ↔ op ∈ undefinedOpcodes) := by
  obtain ⟨i, hentry, -, -, hlength, hund⟩ | ⟨mk, hentry, hmk⟩ | ⟨mk, hentry, hmk⟩ := opcodeEntry_cases op
  · exact ⟨i, [b1, b2], decode_f1 hentry _, by rw [hlength]; rfl, hund⟩
  · obtain ⟨-, -, hlength, hund⟩ := hmk b1
    exact ⟨mk b1, [b2], decode_f2 hentry b1 _, by rw [hlength]; rfl, hund⟩
  · obtain ⟨-, -, hlength, hund⟩ := hmk (mkAddr b2 b1)
    exact ⟨mk (mkAddr b2 b1), [], decode_f3 hentry b1 b2 _, by rw [hlength]; rfl, hund⟩

/-- Settles O2, by the format of the first byte's table entry. -/
theorem decodedBytesAreTheEncoding : Obligations.DecodedBytesAreTheEncoding :=
  ⟨fun _ _ _ h => encode_of_decode h, decode_three_bytes⟩

/-- Settles O3: each word is the opcode of its table entry with its operand bytes. -/
theorem sampleWordsDecode : Obligations.SampleWordsDecode :=
  ⟨decode_f2 rfl 0x0A [], decode_f2 rfl 0x20 [], decode_f1 rfl [], decode_f1 rfl [], decode_encode3 rfl 0x2002 [],
    decode_encode3 rfl 0x02F0 [], decode_f2 rfl 0x10 [], decode_f1 rfl [], decode_encode3 rfl 0x13FF [],
    decode_f2 rfl 0xFB [], decode_f1 rfl [], decode_f1 rfl [], decode_f1 rfl [0x10]⟩

end Sys2Proof.Machine
end

section
/-! PROOF. The meaning of an instruction as `operate` on a resolved operand (40_addressing.md R139): every instruction but
the immediate forms, JMP indirect and the undefined opcodes resolves its operand without a bus effect, so what `operate`
can do is what those instructions can do. From it the cost of every instruction (70_reset_and_hazards.md R421, R422). -/

namespace Sys2Proof.Machine

/-- The triple of an operand that resolution answers with no bus effect (40_addressing.md R121, R122, R124 to R130, R132,
R133). -/
def resolvedOperand (o : Operand) (s : State) : Option Resolution :=
  match o with
  | .imp => some { ea := 0, crossed := false, tag := .none }
  | .src .acc => some { ea := 0, crossed := false, tag := .acc }
  | .src (.mem m) => some (inMemory m s)
  | .rel b1 => some { ea := branchTarget s.cpu.pc b1, crossed := false, tag := .mem }
  | .src (.imm _) | .ind _ => none

/-- The fetch stage of a memory operand, in the two ways the model writes it. -/
theorem readInstr_mem_eq_readAt (m : MemOperand) (base : Nat) (f : Byte → Cpu → Cpu) (s : State) :
    readInstr (.mem m) base f s = readAt (inMemory m s) (base + pagePenalty (.mem m) s) f s := rfl

/-- Such an instruction operates on its resolved operand with its base cost and its page-cross cycle. -/
theorem exec_eq_operate {i : Instr} {s : State} {r : Resolution} (hu : i.operation ≠ .und)
    (hr : resolvedOperand i.operand s = some r) :
    exec i s = operate i.operation r (patternCost i.operation i.mode + crossCost i s) s := by
  have uncrossed : pageCrossCosts i.operation = false →
      exec i s = operate i.operation r (patternCost i.operation i.mode) s →
      exec i s = operate i.operation r (patternCost i.operation i.mode + crossCost i s) s := fun h he => by
    rwa [crossCost_eq_zero h]
  cases hi : i.operand with
  | imp =>
    rw [hi] at hr
    cases hr
    cases i <;> cases hi
    case und.refl => exact absurd rfl hu
    all_goals rfl
  | rel b1 =>
    rw [hi] at hr
    cases hr
    obtain ⟨f, value, hf⟩ := branchTest_of_rel hi
    rw [exec_branch hf hi, operate_branch hf]
    cases i <;> cases hi <;> rfl
  | ind ptr =>
    rw [hi] at hr
    cases hr
  | src q =>
    cases q with
    | imm b =>
      rw [hi] at hr
      cases hr
    | acc =>
      rw [hi] at hr
      cases hr
      cases i <;> cases hi <;> rfl
    | mem m =>
      rw [hi] at hr
      cases hr
      cases hf : readEffect i.operation with
      | some f =>
        rw [exec_read hf hi, readInstr_mem_eq_readAt, pagePenalty_eq_crossCost hf hi, operate_read hf]
      | none =>
        cases i <;> first
          | (cases hf; done)
          | (cases hi; done)
          | (cases hi; exact uncrossed rfl rfl)

/-! Every instruction leaves a next state -/

/-- The meaning of every instruction leaves a next state, by its operand. -/
theorem exec_next (i : Instr) (s : State) : ∃ t, exec i s = .next t := by
  by_cases hu : i.operation = .und
  · obtain ⟨op, rfl⟩ := eq_und_of_operation hu
    exact execUnd_next op s
  have resolved : ∀ r, resolvedOperand i.operand s = some r → ∃ t, exec i s = .next t := fun r hr => by
    rw [exec_eq_operate hu hr]
    exact operate_next _ _ _ _
  cases hi : i.operand with
  | imp => exact resolved _ (by rw [hi]; rfl)
  | rel b1 => exact resolved _ (by rw [hi]; rfl)
  | ind ptr =>
    rw [eq_jmpInd_of_ind hi]
    exact ⟨_, rfl⟩
  | src q =>
    cases q with
    | imm b =>
      obtain ⟨f, hf⟩ := readEffect_of_imm hi
      exact ⟨_, exec_read_eq hf hi s⟩
    | acc => exact resolved _ (by rw [hi]; rfl)
    | mem m => exact resolved _ (by rw [hi]; rfl)

/-! Costs -/

/-- The branch target as a number: `pc` plus the offset read as a signed byte (40_addressing.md R127). -/
theorem branchTarget_eq_branchDestination (next : Addr) (rel : Byte) :
    branchTarget next rel = branchDestination next rel := by
  have hrel := rel.isLt
  unfold branchTarget branchDestination
  apply BitVec.eq_of_toNat_eq
  rw [BitVec.toNat_add, BitVec.toNat_signExtend, BitVec.msb_eq_decide, BitVec.toNat_setWidth]
  by_cases h : rel.toNat < 128
  · rw [if_pos h, decide_eq_false (by omega), BitVec.toNat_ofNat]
    simp
  · rw [if_neg h, decide_eq_true (by omega), BitVec.toNat_ofNat]
    simp
    omega

/-- The page-cross cycle and the extra cycles of a taken branch are those of the operation on its resolved operand. -/
theorem branchExtra_eq_branchCost {i : Instr} {s : State} {r : Resolution}
    (hr : resolvedOperand i.operand s = some r) : branchExtra i.operation r.ea s.cpu = branchCost i s := by
  cases hi : i.operand with
  | rel b1 =>
    rw [hi] at hr
    cases hr
    simp only [branchExtra, branchCost, hi, branchTarget_eq_branchDestination]
    cases branchTest i.operation <;> rfl
  | imp | ind _ | src q => cases i <;> cases hi <;> rfl

/-- An instruction that leaves the machine running loads `cyc` with its total cost (70_reset_and_hazards.md R421). -/
theorem exec_cyc {i : Instr} {s t : State} (hu : i.operation ≠ .und) (hexec : exec i s = .next t) (ht : t.Running) :
    t.cpu.cyc = patternCost i.operation i.mode + crossCost i s + branchCost i s := by
  have resolved : ∀ r, resolvedOperand i.operand s = some r →
      t.cpu.cyc = patternCost i.operation i.mode + crossCost i s + branchCost i s := fun r hr => by
    rw [exec_eq_operate hu hr] at hexec
    rw [operate_cyc hexec ht, branchExtra_eq_branchCost hr]
  cases hi : i.operand with
  | imp => exact resolved _ (by rw [hi]; rfl)
  | rel b1 => exact resolved _ (by rw [hi]; rfl)
  | ind ptr =>
    obtain rfl := eq_jmpInd_of_ind hi
    cases hexec
    rfl
  | src q =>
    cases q with
    | imm b =>
      obtain ⟨f, hf⟩ := readEffect_of_imm hi
      rw [exec_read_eq hf hi] at hexec
      cases hexec
      cases i <;> cases hi <;> rfl
    | acc => exact resolved _ (by rw [hi]; rfl)
    | mem m => exact resolved _ (by rw [hi]; rfl)

/-- The extra cycles of the entry `UNDEF_OP` are its page-cross cycle and those of its branch. -/
theorem entryExtra_eq (u : UndefOp) (s : State) :
    entryExtra u s = crossPenalty u.operation (resolveMode u.mode s).1 +
      branchExtra u.operation (resolveMode u.mode s).1.ea (resolveMode u.mode s).2.cpu := by
  simp only [crossPenalty, Bool.and_eq_true]
  rfl

/-- Settles O60: an undefined opcode operates on the operand its entry's mode resolves to, every other instruction costs
what its operation and mode say. -/
theorem everyInstructionLoadsItsCost : Obligations.EveryInstructionLoadsItsCost := by
  intro i s t hs hexec ht
  refine ⟨fun hu => exec_cyc hu hexec ht, fun hu => ?_⟩
  obtain ⟨op, rfl⟩ := eq_und_of_operation hu
  have hcyc := operate_cyc (op := s.fixed.params.undefOp.operation) hexec ht
  rw [hcyc, entryExtra_eq, Nat.add_assoc]

/-- No instruction of the table costs 0 cycles (70_reset_and_hazards.md R422). -/
theorem patternCost_pos (op : Operation) (mode : Mode) : 1 ≤ patternCost op mode := by
  cases op <;> cases mode <;> decide

end Sys2Proof.Machine
end

section
/-! PROOF. The fetch of an instruction and the shape of a step (30_encoding.md R105, 52_clock_dma.md R340, R345): the bytes
a fetch reads decode to the instruction it answers, and any bytes read at `pc` that decode are that fetch. -/

namespace Sys2Proof.Machine

/-! Bytes read at `pc` -/

@[simp] theorem fetchBytes_zero (s : State) : fetchBytes 0 s = ([], s) := rfl

theorem fetchBytes_succ (n : Nat) (s : State) :
    fetchBytes (n + 1) s =
      ((fetchByte s).1 :: (fetchBytes n (fetchByte s).2).1, (fetchBytes n (fetchByte s).2).2) := rfl

@[simp] theorem fetchBytes_length (n : Nat) (s : State) : (fetchBytes n s).1.length = n := by
  induction n generalizing s with
  | zero => rfl
  | succ n ih => rw [fetchBytes_succ, List.length_cons, ih]

/-- Reading no byte is reading at most none. -/
theorem fetchBytes_eq_nil {n : Nat} {s : State} (h : (fetchBytes n s).1 = []) : n = 0 := by
  rw [← fetchBytes_length n s, h]
  rfl

/-- The fetched instruction is well-formed, and the bytes read decode to it (30_encoding.md R105). -/
theorem fetchInstr_decodes (s : State) :
    (fetchInstr s).1.WellFormed ∧ decode (fetchBytes (fetchInstr s).1.length s).1 = .ok ((fetchInstr s).1, []) ∧
    1 ≤ (fetchInstr s).1.length := by
  obtain ⟨i, hentry, -, hwf, hlength, -⟩ | ⟨mk, hentry, hmk⟩ | ⟨mk, hentry, hmk⟩ := opcodeEntry_cases (fetchByte s).1
  · rw [fetchInstr_f1 hentry, hlength]
    exact ⟨hwf, decode_f1 hentry [], Nat.le_refl 1⟩
  · obtain ⟨-, hwf, hlength, -⟩ := hmk (fetchByte (fetchByte s).2).1
    rw [fetchInstr_f2 hentry, hlength]
    exact ⟨hwf, decode_f2 hentry _ [], by decide⟩
  · obtain ⟨-, hwf, hlength, -⟩ :=
      hmk (mkAddr (fetchByte (fetchByte (fetchByte s).2).2).1 (fetchByte (fetchByte s).2).1)
    rw [fetchInstr_f3 hentry, hlength]
    exact ⟨hwf, decode_f3 hentry _ _ [], by decide⟩

/-- Bytes read at `pc` that are an instruction are the fetch of that instruction. -/
theorem fetchInstr_of_decode {n : Nat} {s : State} {i : Instr} (h : decode (fetchBytes n s).1 = .ok (i, [])) :
    fetchInstr s = (i, (fetchBytes n s).2) := by
  obtain ⟨j, hentry, -⟩ | ⟨mk, hentry, -⟩ | ⟨mk, hentry, -⟩ := opcodeEntry_cases (fetchByte s).1
  · match n with
    | 0 => cases h
    | n + 1 =>
      rw [fetchBytes_succ, decode_f1 hentry] at h
      injection h with h
      injection h with hi hrest
      obtain rfl := fetchBytes_eq_nil hrest
      rw [fetchInstr_f1 hentry, hi]
      rfl
  · match n with
    | 0 => cases h
    | 1 => simp [fetchBytes_succ, decode, hentry] at h
    | n + 2 =>
      rw [fetchBytes_succ, fetchBytes_succ, decode_f2 hentry] at h
      injection h with h
      injection h with hi hrest
      obtain rfl := fetchBytes_eq_nil hrest
      rw [fetchInstr_f2 hentry, hi]
      rfl
  · match n with
    | 0 => cases h
    | 1 | 2 => simp [fetchBytes_succ, decode, hentry] at h
    | n + 3 =>
      rw [fetchBytes_succ, fetchBytes_succ, fetchBytes_succ, decode_f3 hentry] at h
      injection h with h
      injection h with hi hrest
      obtain rfl := fetchBytes_eq_nil hrest
      rw [fetchInstr_f3 hentry, hi]
      rfl

/-- The first byte read is the byte `pc` names. -/
theorem fetchBytes_head {n : Nat} (h : 1 ≤ n) (s : State) : (fetchBytes n s).1.head? = some (byteAt s s.cpu.pc) := by
  match n with
  | n + 1 => rfl

/-- Bytes of RAM and of the cartridge are read in order, and reading them moves `pc` alone (20_memory.md R63, R66). -/
theorem fetchBytes_memory (n : Nat) (s : State)
    (h : ∀ k < n, s.cpu.pc + BitVec.ofNat 16 k ≤ 0x1FFF ∨ 0x4020 ≤ s.cpu.pc + BitVec.ofNat 16 k) :
    (∀ k < n, (fetchBytes n s).1[k]? = some (byteAt s (s.cpu.pc + BitVec.ofNat 16 k))) ∧
      (fetchBytes n s).2 = s.setCpu (s.cpu.setPc (s.cpu.pc + BitVec.ofNat 16 n)) := by
  induction n generalizing s with
  | zero => simp [State.setCpu, Cpu.setPc]
  | succ n ih =>
    have hfirst : s.cpu.pc ≤ 0x1FFF ∨ 0x4020 ≤ s.cpu.pc := by simpa using h 0 (Nat.succ_pos n)
    have hnext : ∀ k, s.cpu.pc + 1 + BitVec.ofNat 16 k = s.cpu.pc + BitVec.ofNat 16 (k + 1) := fun k => by
      rw [BitVec.add_assoc, BitVec.add_comm 1, ofNat_add_one]
    obtain ⟨hbytes, hstate⟩ := ih (s.setCpu (s.cpu.setPc (s.cpu.pc + 1))) fun k hk => by
      rw [State.setCpu_cpu, Cpu.setPc_pc, hnext]
      exact h (k + 1) (Nat.succ_lt_succ hk)
    rw [fetchBytes_succ, fetchByte_memory hfirst]
    refine ⟨fun k hk => ?_, ?_⟩
    · cases k with
      | zero => simp
      | succ k =>
        have hread : byteAt (s.setCpu (s.cpu.setPc (s.cpu.pc + 1))) (s.cpu.pc + BitVec.ofNat 16 (k + 1)) =
            byteAt s (s.cpu.pc + BitVec.ofNat 16 (k + 1)) := by rw [byteAt, memRead_setCpu]
        rw [List.getElem?_cons_succ, hbytes k (Nat.lt_of_succ_lt_succ hk), State.setCpu_cpu, Cpu.setPc_pc, hnext, hread]
    · rw [hstate, ← hnext]
      rfl

/-- Settles O7: a fetch reads the instruction's bytes one after another and nothing else. -/
theorem fetchAdvancesPcByTheLength : Obligations.FetchAdvancesPcByTheLength := by
  intro s f
  obtain ⟨hwf, hdecode, hlength⟩ := fetchInstr_decodes s
  obtain ⟨hcpu, hfatal, hram, hdma, hg, hfixed, htrace⟩ := fetchBytes_frame f.1.length s
  rw [← fetchInstr_state] at hcpu hfatal hram hdma hg hfixed htrace
  refine ⟨hwf, hdecode, fetchInstr_state s, fetchBytes_head hlength s, hcpu, hfatal, hram, hdma, hg, hfixed, htrace,
    fun n h => ?_⟩
  obtain ⟨hbytes, hstate⟩ := fetchBytes_memory n s h
  refine ⟨fetchBytes_length n s, hbytes, ?_⟩
  rw [hstate]
  exact ⟨⟨rfl, rfl, rfl, rfl, rfl, rfl, rfl⟩, rfl⟩

/-! The CPU's share of a step -/

theorem cpuStage_cpuTick {s : State} (h : s.g % 3 = 0) : cpuStage s = cpuTick s := if_pos h

theorem cpuStage_idle {s : State} (h : s.g % 3 ≠ 0) : cpuStage s = .next s := if_neg h

/-- The CPU's share of a tick always leaves a next state. -/
theorem cpuStage_next (s : State) : ∃ t, cpuStage s = .next t := by
  by_cases hg : s.g % 3 = 0
  · rw [cpuStage_cpuTick hg]
    cases hd : s.dma.active with
    | true => exact ⟨_, cpuTick_dma hd⟩
    | false =>
      by_cases hc : s.cpu.cyc ≤ 1
      · rw [cpuTick_execute hd hc]
        exact exec_next _ _
      · exact ⟨_, cpuTick_count hd (by omega)⟩
  · exact ⟨s, cpuStage_idle hg⟩

/-- A step whose CPU share is known (52_clock_dma.md R340). -/
theorem step_of_cpuStage {s u : State} (hs : s.Running) (h : cpuStage (ppuStage s) = .next u) :
    step s = .next (audioStage u) := by
  rw [step_running hs, globalTick, h]

/-- Settles O8: the PPU's and the audio unit's shares always leave a state, and so does the CPU's. -/
theorem onlyTheFatalConditionStops : Obligations.OnlyTheFatalConditionStops := by
  refine ⟨fun s hs => ?_, fun s f hf => by rw [step, hf]⟩
  obtain ⟨t, ht⟩ := cpuStage_next (ppuStage s)
  exact ⟨_, step_of_cpuStage hs ht⟩

/-- Settles O4: the bytes that decode are those the fetch of the step reads. -/
theorem stepRunsTheDecodedInstruction : Obligations.StepRunsTheDecodedInstruction := by
  intro s i hs u hg hd hc f hdecode
  have hcpu : cpuStage (ppuStage s) = exec i f.2 := by
    rw [cpuStage_cpuTick hg, cpuTick_execute hd hc, executeInstruction, fetchInstr_of_decode hdecode]
  rw [step_running hs, ← hcpu]
  rfl

/-- The PPU's share of a step (52_clock_dma.md R340). -/
theorem ppuStage_eq (s : State) : ppuStage s = (ppuTick s).setG (s.g + 1) := by
  obtain ⟨-, -, -, hg, -⟩ := ppuTick_frame s
  rw [ppuStage, hg]

/-- Settles O6: the CPU's share of each step that executes no instruction, by the tick's phase, the DMA unit and the
countdown. -/
theorem stepBetweenInstructions : Obligations.StepBetweenInstructions := by
  intro s hs u
  refine ⟨ppuStage_eq s, fun w => rfl, fun hg => ?_, fun hg hd hc => ?_, fun hg hd => ?_⟩
  · have haudio : audioStage u = u := if_neg fun h => hg (by omega)
    rw [step_of_cpuStage hs (cpuStage_idle hg), haudio]
  · exact step_of_cpuStage hs ((cpuStage_cpuTick hg).trans (cpuTick_count hd hc))
  · exact step_of_cpuStage hs ((cpuStage_cpuTick hg).trans (cpuTick_dma hd))

end Sys2Proof.Machine
end

section
/-! PROOF. The fields of `v` and `t` (10_state.md R32): a 15-bit address is the concatenation of its four fields, and each
update of it (51_ppu_rendering.md R300 to R303, 50_ppu_registers.md R252, R263 to R266) is one of concatenations. -/

namespace Sys2Proof.Machine

/-! Concatenation -/

/-- A concatenation as a number. -/
theorem toNat_append_eq_add {m n : Nat} (x : BitVec m) (y : BitVec n) :
    (x ++ y).toNat = x.toNat * 2 ^ n + y.toNat := by
  rw [BitVec.toNat_append, ← Nat.shiftLeft_add_eq_or_of_lt y.isLt, Nat.shiftLeft_eq]

/-- The 15-bit address with the four fields given (10_state.md R32). -/
def packV (fine : BitVec 3) (nt : BitVec 2) (cy cx : BitVec 5) : BitVec 15 := fine ++ nt ++ cy ++ cx

theorem packV_toNat (fine : BitVec 3) (nt : BitVec 2) (cy cx : BitVec 5) :
    (packV fine nt cy cx).toNat = fine.toNat * 4096 + nt.toNat * 1024 + cy.toNat * 32 + cx.toNat := by
  simp only [packV, toNat_append_eq_add]
  omega

theorem coarseX_toNat (v : BitVec 15) : (coarseX v).toNat = v.toNat % 32 := by
  simp [coarseX, BitVec.extractLsb'_toNat]

theorem coarseY_toNat (v : BitVec 15) : (coarseY v).toNat = v.toNat / 32 % 32 := by
  simp [coarseY, BitVec.extractLsb'_toNat, Nat.shiftRight_eq_div_pow]

theorem nametableSelect_toNat (v : BitVec 15) : (nametableSelect v).toNat = v.toNat / 1024 % 4 := by
  simp [nametableSelect, BitVec.extractLsb'_toNat, Nat.shiftRight_eq_div_pow]

theorem fineY_toNat (v : BitVec 15) : (fineY v).toNat = v.toNat / 4096 := by
  have := v.isLt
  simp [fineY, BitVec.extractLsb'_toNat, Nat.shiftRight_eq_div_pow]
  omega

@[simp] theorem coarseX_packV (fine : BitVec 3) (nt : BitVec 2) (cy cx : BitVec 5) :
    coarseX (packV fine nt cy cx) = cx := by
  apply BitVec.eq_of_toNat_eq
  rw [coarseX_toNat, packV_toNat]
  omega

@[simp] theorem coarseY_packV (fine : BitVec 3) (nt : BitVec 2) (cy cx : BitVec 5) :
    coarseY (packV fine nt cy cx) = cy := by
  apply BitVec.eq_of_toNat_eq
  rw [coarseY_toNat, packV_toNat]
  omega

@[simp] theorem nametableSelect_packV (fine : BitVec 3) (nt : BitVec 2) (cy cx : BitVec 5) :
    nametableSelect (packV fine nt cy cx) = nt := by
  apply BitVec.eq_of_toNat_eq
  rw [nametableSelect_toNat, packV_toNat]
  omega

@[simp] theorem fineY_packV (fine : BitVec 3) (nt : BitVec 2) (cy cx : BitVec 5) :
    fineY (packV fine nt cy cx) = fine := by
  apply BitVec.eq_of_toNat_eq
  rw [fineY_toNat, packV_toNat]
  omega

/-- Every 15-bit address is its four fields. -/
theorem eq_packV_fields (v : BitVec 15) : v = packV (fineY v) (nametableSelect v) (coarseY v) (coarseX v) := by
  apply BitVec.eq_of_toNat_eq
  rw [packV_toNat, fineY_toNat, nametableSelect_toNat, coarseY_toNat, coarseX_toNat]
  omega

/-- The fields of an address written as its fields. -/
theorem packV_fields {v : BitVec 15} {f : BitVec 3} {n : BitVec 2} {y x : BitVec 5} (h : v = packV f n y x) :
    fineY v = f ∧ nametableSelect v = n ∧ coarseY v = y ∧ coarseX v = x := by
  subst h
  exact ⟨fineY_packV f n y x, nametableSelect_packV f n y x, coarseY_packV f n y x, coarseX_packV f n y x⟩

/-- The bits of the fields, from coarse X up. -/
theorem getLsbD_packV (fine : BitVec 3) (nt : BitVec 2) (cy cx : BitVec 5) (i : Nat) :
    (packV fine nt cy cx).getLsbD i =
      if i < 5 then cx.getLsbD i else if i < 10 then cy.getLsbD (i - 5)
      else if i < 12 then nt.getLsbD (i - 10) else fine.getLsbD (i - 12) := by
  unfold packV
  rw [BitVec.getLsbD_append, BitVec.getLsbD_append, BitVec.getLsbD_append]
  by_cases h5 : i < 5
  · simp [h5]
  by_cases h10 : i < 10
  · simp [h5, h10, show i - 5 < 5 by omega]
  by_cases h12 : i < 12
  · simp [h5, h10, h12, show ¬ i - 5 < 5 by omega, show i - 10 < 2 by omega, Nat.sub_sub]
  · simp [h5, h10, h12, show ¬ i - 5 < 5 by omega, show ¬ i - 10 < 2 by omega, Nat.sub_sub]

/-! The scroll updates -/

/-- `ResetX` takes coarse X and the horizontal nametable bit of `t` (51_ppu_rendering.md R302). -/
theorem resetXv_packV (f f' : BitVec 3) (n n' : BitVec 2) (y y' x x' : BitVec 5) :
    resetXv (packV f n y x) (packV f' n' y' x') = packV f ((n &&& 2) ||| (n' &&& 1)) y x' := by
  apply BitVec.eq_of_getLsbD_eq
  intro i hi
  rw [resetXv, BitVec.getLsbD_or, BitVec.getLsbD_and, BitVec.getLsbD_and]
  simp only [getLsbD_packV]
  interval_cases i <;> simp

/-- `ResetY` takes fine Y, coarse Y and the vertical nametable bit of `t` (51_ppu_rendering.md R303). -/
theorem resetYv_packV (f f' : BitVec 3) (n n' : BitVec 2) (y y' x x' : BitVec 5) :
    resetYv (packV f n y x) (packV f' n' y' x') = packV f' ((n &&& 1) ||| (n' &&& 2)) y' x := by
  apply BitVec.eq_of_getLsbD_eq
  intro i hi
  rw [resetYv, BitVec.getLsbD_or, BitVec.getLsbD_and, BitVec.getLsbD_and]
  simp only [getLsbD_packV]
  interval_cases i <;> simp

/-- `IncX` counts coarse X and carries into the horizontal nametable bit (51_ppu_rendering.md R300). -/
theorem incXv_packV (f : BitVec 3) (n : BitVec 2) (y x : BitVec 5) :
    incXv (packV f n y x) = packV f (if x = 31 then n ^^^ 1 else n) y (x + 1) := by
  unfold incXv
  rw [coarseX_packV]
  by_cases hx : x = 31
  · subst hx
    rw [if_pos rfl, if_pos rfl]
    apply BitVec.eq_of_getLsbD_eq
    intro i hi
    rw [BitVec.getLsbD_xor, BitVec.getLsbD_and]
    simp only [getLsbD_packV]
    interval_cases i <;> simp
  · have hlt : x.toNat < 31 := by bv_omega
    rw [if_neg hx, if_neg hx]
    apply BitVec.eq_of_toNat_eq
    rw [BitVec.toNat_add, packV_toNat, packV_toNat, BitVec.toNat_add]
    simp
    omega

/-- Coarse Y after `IncY` carried out of fine Y (51_ppu_rendering.md R301). -/
theorem incYv_packV (f : BitVec 3) (n : BitVec 2) (y x : BitVec 5) :
    incYv (packV f n y x) =
      packV (f + 1) (if f = 7 ∧ y = 29 then n ^^^ 2 else n)
        (if f = 7 then (if y = 29 then 0 else y + 1) else y) x := by
  unfold incYv
  rw [fineY_packV]
  by_cases hf : f.toNat < 7
  · have hne : f ≠ 7 := by bv_omega
    rw [if_pos hf, if_neg hne, if_neg (fun h => hne h.1)]
    apply BitVec.eq_of_toNat_eq
    rw [BitVec.toNat_add, packV_toNat, packV_toNat, BitVec.toNat_add]
    simp
    omega
  · obtain rfl : f = 7 := by bv_omega
    have hmask : packV 7 n y x &&& 0x0FFF = packV 0 n y x := by
      apply BitVec.eq_of_getLsbD_eq
      intro i hi
      rw [BitVec.getLsbD_and]
      simp only [getLsbD_packV]
      interval_cases i <;> simp
    have hflip : packV 0 n y x ^^^ 0x0800 = packV 0 (n ^^^ 2) y x := by
      apply BitVec.eq_of_getLsbD_eq
      intro i hi
      rw [BitVec.getLsbD_xor]
      simp only [getLsbD_packV]
      interval_cases i <;> simp
    have hcoarse : ∀ (m : BitVec 2) (cy : BitVec 5),
        (packV 0 m y x &&& 0x7C1F) ||| (cy.setWidth 15 <<< 5) = packV 0 m cy x := by
      intro m cy
      apply BitVec.eq_of_getLsbD_eq
      intro i hi
      rw [BitVec.getLsbD_or, BitVec.getLsbD_and]
      simp only [getLsbD_packV]
      interval_cases i <;> simp
    have hwrap : (if y = 29 then 0 else if y = 31 then 0 else y + 1) = if y = 29 then 0 else y + 1 := by
      by_cases hy : y = 31
      · subst hy
        rfl
      · rw [if_neg hy]
    rw [if_neg hf, if_pos rfl]
    simp only [hmask, coarseY_packV, hflip, hwrap, true_and]
    by_cases hy : y = 29
    · rw [if_pos hy, if_pos hy, if_pos hy, hcoarse]
      rfl
    · rw [if_neg hy, if_neg hy, if_neg hy, hcoarse]
      rfl

/-- Settles O26: the four updates on an address written as its fields. -/
theorem scrollUpdatesMoveTheirFields : Obligations.ScrollUpdatesMoveTheirFields := by
  intro v t
  rw [eq_packV_fields v, eq_packV_fields t, incXv_packV, incYv_packV, resetXv_packV, resetYv_packV]
  simp

/-! The writes of `t` -/

theorem ctrlWrite_t (d : Byte) (p : Ppu) :
    (ctrlWrite d p).t = packV (fineY p.t) (d.setWidth 2) (coarseY p.t) (coarseX p.t) := by
  apply BitVec.eq_of_getLsbD_eq
  intro i hi
  rw [ctrlWrite, BitVec.getLsbD_or, BitVec.getLsbD_and, getLsbD_packV]
  interval_cases i <;> simp [fineY, coarseY, coarseX]

theorem scrollWrite_t_first (d : Byte) {p : Ppu} (hw : p.w = false) :
    (scrollWrite d p).t = packV (fineY p.t) (nametableSelect p.t) (coarseY p.t) ((d >>> 3).setWidth 5) := by
  apply BitVec.eq_of_getLsbD_eq
  intro i hi
  simp only [scrollWrite, hw, Bool.false_eq_true, if_false]
  rw [BitVec.getLsbD_or, BitVec.getLsbD_and, getLsbD_packV]
  interval_cases i <;> simp [fineY, coarseY, nametableSelect]

theorem scrollWrite_t_second (d : Byte) {p : Ppu} (hw : p.w = true) :
    (scrollWrite d p).t = packV (d.setWidth 3) (nametableSelect p.t) ((d >>> 3).setWidth 5) (coarseX p.t) := by
  apply BitVec.eq_of_getLsbD_eq
  intro i hi
  simp only [scrollWrite, hw, if_true]
  rw [BitVec.getLsbD_or, BitVec.getLsbD_or, BitVec.getLsbD_and, getLsbD_packV]
  interval_cases i <;> simp [coarseX, nametableSelect]

/-- The first address write fills bits 14 to 8 of `t`, the top one with 0 (50_ppu_registers.md R265). -/
theorem addrWrite_t_first (d : Byte) {p : Ppu} (hw : p.w = false) :
    (addrWrite d p).t.toNat = d.toNat % 64 * 256 + p.t.toNat % 256 := by
  have hbits : (addrWrite d p).t = (d.setWidth 6).setWidth 7 ++ p.t.setWidth 8 := by
    apply BitVec.eq_of_getLsbD_eq
    intro i hi
    simp only [addrWrite, hw, Bool.false_eq_true, if_false]
    rw [BitVec.getLsbD_or, BitVec.getLsbD_and, BitVec.getLsbD_append]
    interval_cases i <;> simp
  rw [hbits, toNat_append_eq_add]
  simp
  omega

/-- The second address write fills bits 7 to 0 of `t` (50_ppu_registers.md R266). -/
theorem addrWrite_t_second (d : Byte) {p : Ppu} (hw : p.w = true) :
    (addrWrite d p).t.toNat = p.t.toNat / 256 * 256 + d.toNat := by
  have hbits : (addrWrite d p).t = p.t.extractLsb' 8 7 ++ d := by
    apply BitVec.eq_of_getLsbD_eq
    intro i hi
    simp only [addrWrite, hw, if_true]
    rw [BitVec.getLsbD_or, BitVec.getLsbD_and, BitVec.getLsbD_append]
    interval_cases i <;> simp
  have ht := p.t.isLt
  rw [hbits, toNat_append_eq_add, BitVec.extractLsb'_toNat, Nat.shiftRight_eq_div_pow]
  omega

theorem and_seven (b : BitVec 3) : b &&& 7#3 = b := BitVec.and_allOnes

/-- Settles O21: each write leaves `t` with the fields of the old one but those it names. -/
theorem scrollAndAddressWritesPackT : Obligations.ScrollAndAddressWritesPackT := by
  intro fixed d p
  refine ⟨?ctrl, fun hw => ?scrollFirst, fun hw => ?scrollSecond, fun hw => ?addrFirst, fun hw => ?addrSecond⟩
  case ctrl =>
    obtain ⟨hf, hn, hy, hx⟩ := packV_fields (ctrlWrite_t d p)
    exact ⟨rfl, hn, hx, hy, hf⟩
  case scrollFirst =>
    obtain ⟨hf, hn, hy, hx⟩ := packV_fields (scrollWrite_t_first d hw)
    have hframe : scrollWrite d p = { p with t := (scrollWrite d p).t, x := d.setWidth 3, w := true } := by
      simp [scrollWrite, hw, and_seven]
    exact ⟨hframe, hx, hy, hn, hf⟩
  case scrollSecond =>
    obtain ⟨hf, hn, hy, hx⟩ := packV_fields (scrollWrite_t_second d hw)
    have hframe : scrollWrite d p = { p with t := (scrollWrite d p).t, w := false } := by simp [scrollWrite, hw]
    exact ⟨hframe, hf, hy, hx, hn⟩
  case addrFirst =>
    have hframe : addrWrite d p = { p with t := (addrWrite d p).t, w := true } := by simp [addrWrite, hw]
    exact ⟨hframe, addrWrite_t_first d hw⟩
  case addrSecond =>
    have hframe : addrWrite d p = { p with t := (addrWrite d p).t, v := (addrWrite d p).t, w := false } := by
      simp [addrWrite, hw]
    exact ⟨hframe, addrWrite_t_second d hw⟩

/-! The fetch addresses as numbers -/

/-- The nametable address (51_ppu_rendering.md R297). -/
theorem nametableAddr_toNat (v : BitVec 15) :
    (nametableAddr v).toNat =
      0x2000 + 0x400 * (nametableSelect v).toNat + 32 * (coarseY v).toNat + (coarseX v).toNat := by
  have hbits : nametableAddr v = 2#4 ++ nametableSelect v ++ coarseY v ++ coarseX v := by
    apply BitVec.eq_of_getLsbD_eq
    intro i hi
    rw [nametableAddr, vramAddr, BitVec.getLsbD_or, BitVec.getLsbD_and, BitVec.getLsbD_append, BitVec.getLsbD_append,
      BitVec.getLsbD_append]
    interval_cases i <;> simp [nametableSelect, coarseY, coarseX]
  rw [hbits]
  simp only [toNat_append_eq_add, BitVec.toNat_ofNat]
  omega

/-- The attribute address (51_ppu_rendering.md R298). -/
theorem attributeAddr_toNat (v : BitVec 15) :
    (attributeAddr v).toNat =
      0x23C0 + 0x400 * (nametableSelect v).toNat + 8 * ((coarseY v).toNat / 4) + (coarseX v).toNat / 4 := by
  have hbits : attributeAddr v =
      2#4 ++ nametableSelect v ++ 15#4 ++ (coarseY v).extractLsb' 2 3 ++ (coarseX v).extractLsb' 2 3 := by
    apply BitVec.eq_of_getLsbD_eq
    intro i hi
    rw [attributeAddr, vramAddr, BitVec.getLsbD_or, BitVec.getLsbD_or, BitVec.getLsbD_or, BitVec.getLsbD_and,
      BitVec.getLsbD_and, BitVec.getLsbD_and, BitVec.getLsbD_append, BitVec.getLsbD_append, BitVec.getLsbD_append,
      BitVec.getLsbD_append]
    interval_cases i <;> simp [nametableSelect, coarseY, coarseX]
  have hy := (coarseY v).isLt
  have hx := (coarseX v).isLt
  rw [hbits]
  simp only [toNat_append_eq_add, BitVec.toNat_ofNat, BitVec.extractLsb'_toNat, Nat.shiftRight_eq_div_pow]
  omega

/-- The quadrant of an attribute byte (51_ppu_rendering.md R298). -/
theorem attributeShift_eq (v : BitVec 15) :
    attributeShift v = 4 * ((coarseY v).toNat / 2 % 2) + 2 * ((coarseX v).toNat / 2 % 2) := by
  have hbits : ((v >>> 4) &&& 4) ||| (v &&& 2) =
      0#12 ++ (coarseY v).extractLsb' 1 1 ++ (coarseX v).extractLsb' 1 1 ++ 0#1 := by
    apply BitVec.eq_of_getLsbD_eq
    intro i hi
    rw [BitVec.getLsbD_or, BitVec.getLsbD_and, BitVec.getLsbD_and, BitVec.getLsbD_append, BitVec.getLsbD_append,
      BitVec.getLsbD_append]
    interval_cases i <;> simp [coarseY, coarseX]
  rw [attributeShift, hbits]
  simp only [toNat_append_eq_add, BitVec.toNat_ofNat, BitVec.extractLsb'_toNat, Nat.shiftRight_eq_div_pow]
  omega

/-- A pattern address: the table, the tile, the row (51_ppu_rendering.md R299, R313). -/
theorem patternAddr_toNat (second : Bool) {tile row : Addr} (htile : tile.toNat < 256) (hrow : row.toNat < 16) :
    (patternTable second ||| (tile <<< 4) ||| row).toNat = 0x1000 * second.toNat + 16 * tile.toNat + row.toNat := by
  obtain ⟨tile, rfl⟩ : ∃ t : Byte, tile = t.setWidth 16 := ⟨tile.setWidth 8, by bv_omega⟩
  obtain ⟨row, rfl⟩ : ∃ r : BitVec 4, row = r.setWidth 16 := ⟨row.setWidth 4, by bv_omega⟩
  have hbits : patternTable second ||| (tile.setWidth 16 <<< 4) ||| row.setWidth 16 =
      0#3 ++ BitVec.ofBool second ++ tile ++ row := by
    apply BitVec.eq_of_getLsbD_eq
    intro i hi
    rw [BitVec.getLsbD_or, BitVec.getLsbD_or, BitVec.getLsbD_append, BitVec.getLsbD_append, BitVec.getLsbD_append]
    cases second <;> interval_cases i <;> simp [patternTable]
  rw [hbits]
  simp only [toNat_append_eq_add, BitVec.toNat_ofNat, BitVec.toNat_ofBool, BitVec.toNat_setWidth]
  omega

/-- The background pattern address (51_ppu_rendering.md R299). -/
theorem bgPatternAddr_toNat (p : Ppu) :
    (bgPatternAddr p).toNat = 0x1000 * (p.ctrl.getLsbD 4).toNat + 16 * p.nextTileId.toNat + (fineY p.v).toNat := by
  have htile : (p.nextTileId.setWidth 16).toNat = p.nextTileId.toNat := BitVec.toNat_setWidth_of_le (by decide)
  have hrow : ((fineY p.v).setWidth 16).toNat = (fineY p.v).toNat := BitVec.toNat_setWidth_of_le (by decide)
  have hfine := (fineY p.v).isLt
  rw [bgPatternAddr, patternAddr_toNat _ (htile ▸ p.nextTileId.isLt) (by omega), htile, hrow]

/-- A load replaces the low byte (51_ppu_rendering.md R296). -/
theorem loadLow_toNat (r : BitVec 16) (b : Byte) : (loadLow r b).toNat = r.toNat / 256 * 256 + b.toNat := by
  have hbits : loadLow r b = r.extractLsb' 8 8 ++ b := by
    apply BitVec.eq_of_getLsbD_eq
    intro i hi
    rw [loadLow, BitVec.getLsbD_or, BitVec.getLsbD_and, BitVec.getLsbD_append]
    interval_cases i <;> simp
  have hr := r.isLt
  rw [hbits, toNat_append_eq_add, BitVec.extractLsb'_toNat, Nat.shiftRight_eq_div_pow]
  omega

end Sys2Proof.Machine
end

section
/-! PROOF. The rendering stage of a PPU tick (51_ppu_rendering.md R291 to R303): a cycle of a rendering line as one
update of the pipeline, `v` and the OAM address, and the whole tick's effect on the fields that only this stage writes. -/

namespace Sys2Proof.Machine

/-! One cycle of a rendering line -/

/-- What a sub-cycle does, field by field (51_ppu_rendering.md R295 to R300). -/
theorem bgSubCycle_eq (fixed : Fixed) (sub : Nat) (p : Ppu) :
    bgSubCycle fixed sub p = { p with
      bgPatLo := if sub = 0 then loadLow p.bgPatLo p.nextPatLo else p.bgPatLo
      bgPatHi := if sub = 0 then loadLow p.bgPatHi p.nextPatHi else p.bgPatHi
      bgAttrLo := if sub = 0 then loadLow p.bgAttrLo (spreadBit (p.nextAttr.getLsbD 0)) else p.bgAttrLo
      bgAttrHi := if sub = 0 then loadLow p.bgAttrHi (spreadBit (p.nextAttr.getLsbD 1)) else p.bgAttrHi
      nextTileId := if sub = 0 then ppuRead fixed p (nametableAddr p.v) else p.nextTileId
      nextAttr := if sub = 2 then (ppuRead fixed p (attributeAddr p.v) >>> attributeShift p.v).setWidth 2
        else p.nextAttr
      nextPatLo := if sub = 4 then ppuRead fixed p (bgPatternAddr p) else p.nextPatLo
      nextPatHi := if sub = 6 then ppuRead fixed p (bgPatternAddr p + 8) else p.nextPatHi
      v := if sub = 7 then incXv p.v else p.v } := by
  match sub with
  | 0 | 1 | 2 | 3 | 4 | 5 | 6 | 7 => rfl
  | n + 8 => simp [bgSubCycle]

/-- A cycle in which the background pipeline shifts and fetches (51_ppu_rendering.md R291). -/
abbrev Ppu.fetchCycle (p : Ppu) : Prop := p.cycle ≤ 255 ∨ (320 ≤ p.cycle ∧ p.cycle ≤ 335)

/-- A line on which the rendering stage works, with rendering enabled (51_ppu_rendering.md R291, R292). -/
abbrev Ppu.renderingLine (p : Ppu) : Prop := p.renderingEnabled = true ∧ -1 ≤ p.scanline ∧ p.scanline ≤ 239

/-- The PPU after the shift and the sub-cycle of a fetch cycle. -/
def Ppu.fetched (fixed : Fixed) (p : Ppu) : Ppu :=
  if p.fetchCycle then bgSubCycle fixed (p.cycle % 8) (bgShift p) else p

/-- The updates of `v` and the OAM address after the fetches, at line `line` and cycle `c` (51_ppu_rendering.md R291). -/
def addressUpdates (line : Int) (c : Nat) (p : Ppu) : Ppu :=
  let p := if c = 255 then { p with v := incYv p.v } else p
  let p := if c = 256 then { p with v := resetXv p.v p.t } else p
  let p := if 256 ≤ c ∧ c ≤ 319 then { p with oamAddr := 0 } else p
  if line = -1 ∧ 280 ≤ c ∧ c ≤ 304 then { p with v := resetYv p.v p.t } else p

/-- A cycle of a rendering line: the fetches, then the address updates. -/
theorem renderCycle_eq (fixed : Fixed) (p : Ppu) :
    renderCycle fixed p = addressUpdates p.scanline p.cycle (p.fetched fixed) := rfl

/-- The address updates of one cycle: at most one of them changes `v`. -/
theorem addressUpdates_eq (line : Int) (c : Nat) (p : Ppu) :
    addressUpdates line c p = { p with
      v := if c = 255 then incYv p.v
        else if c = 256 then resetXv p.v p.t
        else if line = -1 ∧ 280 ≤ c ∧ c ≤ 304 then resetYv p.v p.t else p.v
      oamAddr := if 256 ≤ c ∧ c ≤ 319 then 0 else p.oamAddr } := by
  unfold addressUpdates
  by_cases h255 : c = 255
  · subst h255
    simp
  · by_cases h256 : c = 256
    · subst h256
      simp
    · simp only [h255, h256, if_false]
      split_ifs <;> rfl

/-- A fetch cycle on the fields of the pipeline: `v` moves on in the last sub-cycle, the address updates see the old `t`
and OAM address. -/
theorem fetched_v (fixed : Fixed) (p : Ppu) :
    (p.fetched fixed).v = (if p.fetchCycle ∧ p.cycle % 8 = 7 then incXv p.v else p.v) ∧
    (p.fetched fixed).t = p.t ∧ (p.fetched fixed).oamAddr = p.oamAddr := by
  unfold Ppu.fetched
  by_cases hc : p.fetchCycle
  · simp only [hc, if_true, true_and, bgSubCycle_eq]
    exact ⟨rfl, rfl, rfl⟩
  · simp [hc]

/-! The whole tick on the fields of the rendering stage -/

/-- The PPU with what the status events write. -/
def Ppu.setEvents (status : Byte) (slots : List SpriteSlot) (count : Nat) (line0 : Bool) (p : Ppu) : Ppu :=
  { p with status := status, slots := slots, spriteCount := count, spr0Line := line0 }

/-- The rendering stage does not see what the status events write. -/
theorem afterRender_setEvents (fixed : Fixed) (status : Byte) (slots : List SpriteSlot) (count : Nat) (line0 : Bool)
    (p : Ppu) :
    (p.setEvents status slots count line0).afterRender fixed =
      (p.afterRender fixed).setEvents status slots count line0 := by
  have sub : ∀ n q, bgSubCycle fixed n (Ppu.setEvents status slots count line0 q) =
      (bgSubCycle fixed n q).setEvents status slots count line0 := fun n q => by
    unfold bgSubCycle
    split <;> rfl
  have fetched : (p.setEvents status slots count line0).fetched fixed =
      (p.fetched fixed).setEvents status slots count line0 := by
    unfold Ppu.fetched
    rw [apply_ite (Ppu.setEvents status slots count line0), ← sub]
    rfl
  have addresses : ∀ line c q, addressUpdates line c (Ppu.setEvents status slots count line0 q) =
      (addressUpdates line c q).setEvents status slots count line0 := fun line c q => by
    unfold addressUpdates
    split_ifs <;> rfl
  unfold Ppu.afterRender
  rw [apply_ite (Ppu.setEvents status slots count line0), renderCycle_eq fixed p, ← addresses, ← fetched]
  rfl

/-- Two PPUs that agree outside the position, the sprites and the status. -/
def Ppu.SameButSprites (p q : Ppu) : Prop :=
  q = { p with
    status := q.status, slots := q.slots, spriteCount := q.spriteCount, spr0Next := q.spr0Next,
    spr0Line := q.spr0Line, secOam := q.secOam, scanline := q.scanline, cycle := q.cycle }

/-- The status events before the rendering stage are the status events after it. -/
theorem afterRender_afterEvents (fixed : Fixed) (p : Ppu) :
    p.afterEvents.afterRender fixed = (p.afterRender fixed).setEvents p.afterEvents.status p.afterEvents.slots
      p.afterEvents.spriteCount p.afterEvents.spr0Line := by
  rw [← afterRender_setEvents]
  exact congrArg _ (afterEvents_frame p)

/-- The advance writes the position. -/
theorem afterAdvance_frame (p : Ppu) :
    p.afterAdvance = { p with scanline := p.afterAdvance.scanline, cycle := p.afterAdvance.cycle } := by
  unfold Ppu.afterAdvance
  split_ifs <;> rfl

/-- A tick leaves in the fields that no other stage writes what the rendering stage leaves. -/
theorem ppuTick_render (s : State) : (s.ppu.afterRender s.fixed).SameButSprites (ppuTick s).ppu := by
  rw [ppuTick_ppu, afterAdvance_frame, afterPixel_frame, afterRender_afterEvents]
  rfl

theorem afterRender_of_line (fixed : Fixed) {p : Ppu} (h : p.renderingLine) :
    p.afterRender fixed = addressUpdates p.scanline p.cycle (p.fetched fixed) := by
  rw [Ppu.afterRender, if_pos h, renderCycle_eq]

theorem afterRender_of_not_line (fixed : Fixed) {p : Ppu} (h : ¬p.renderingLine) : p.afterRender fixed = p := by
  rw [Ppu.afterRender, if_neg h]

/-! `v` and the OAM address -/

/-- `v` after a tick (51_ppu_rendering.md R291, R300 to R303). -/
theorem ppuTick_v_of_line {s : State} (h : s.ppu.renderingLine) :
    let p := s.ppu
    let c := p.cycle
    let fetched := if p.fetchCycle ∧ c % 8 = 7 then incXv p.v else p.v
    (ppuTick s).ppu.v =
      if c = 255 then incYv fetched
      else if c = 256 then resetXv fetched p.t
      else if p.scanline = -1 ∧ 280 ≤ c ∧ c ≤ 304 then resetYv fetched p.t else fetched := by
  intro p c fetched
  obtain ⟨hv, ht, -⟩ := fetched_v s.fixed p
  rw [ppuTick_render s, afterRender_of_line s.fixed h, addressUpdates_eq]
  change (p.fetched s.fixed).v = fetched at hv
  rw [← hv, ← ht]

theorem ppuTick_v_of_not_line {s : State} (h : ¬s.ppu.renderingLine) : (ppuTick s).ppu.v = s.ppu.v := by
  rw [ppuTick_render s, afterRender_of_not_line s.fixed h]

/-- The OAM address after a tick (51_ppu_rendering.md R307). -/
theorem ppuTick_oamAddr (s : State) :
    (ppuTick s).ppu.oamAddr =
      if s.ppu.renderingLine ∧ 256 ≤ s.ppu.cycle ∧ s.ppu.cycle ≤ 319 then 0 else s.ppu.oamAddr := by
  rw [ppuTick_render s]
  by_cases h : s.ppu.renderingLine
  · obtain ⟨-, -, hoam⟩ := fetched_v s.fixed s.ppu
    rw [afterRender_of_line s.fixed h, addressUpdates_eq]
    exact if_congr (and_iff_right h).symm rfl hoam
  · rw [afterRender_of_not_line s.fixed h, if_neg fun hn => h hn.1]

/-- Settles O25: the branches of `v` after a tick, cycle by cycle. -/
theorem vramAddressDuringRendering : Obligations.VramAddressDuringRendering := by
  intro s
  dsimp only
  refine ⟨fun h h7 hc => ?incX, fun h hc => ?incY, fun h hc => ?resetX, fun h hl h280 h304 => ?resetY, fun h => ?held,
    fun h h256 h319 => ?cleared, fun h => ?kept⟩
  case incX =>
    rw [ppuTick_v_of_line h, if_neg (by omega), if_neg (by omega), if_neg (by omega), if_pos (by omega)]
  case incY => rw [ppuTick_v_of_line h, if_pos hc, if_pos (by omega)]
  case resetX => rw [ppuTick_v_of_line h, if_neg (by omega), if_pos hc, if_neg (by omega)]
  case resetY =>
    rw [ppuTick_v_of_line h, if_neg (by omega), if_neg (by omega), if_pos ⟨hl, h280, h304⟩, if_neg (by omega)]
  case held =>
    by_cases hl : s.ppu.renderingLine
    · have hidle := not_and.mp h hl
      rw [ppuTick_v_of_line hl, if_neg (by omega), if_neg (by omega), if_neg (by omega), if_neg (by omega)]
    · exact ppuTick_v_of_not_line hl
  case cleared => exact (ppuTick_oamAddr s).trans (if_pos ⟨h, h256, h319⟩)
  case kept => exact (ppuTick_oamAddr s).trans (if_neg h)

/-! The pipeline -/

/-- Outside the fetch cycles of a rendering line the rendering stage writes at most `v` and the OAM address. -/
theorem afterRender_idle (fixed : Fixed) {p : Ppu}
    (h : ¬(p.renderingEnabled = true ∧ -1 ≤ p.scanline ∧ p.scanline ≤ 239 ∧ p.fetchCycle)) :
    p.afterRender fixed =
      { p with v := (p.afterRender fixed).v, oamAddr := (p.afterRender fixed).oamAddr } := by
  by_cases hline : p.renderingLine
  · obtain ⟨hrendering, hfirst, hlast⟩ := hline
    rw [afterRender_of_line fixed ⟨hrendering, hfirst, hlast⟩, Ppu.fetched,
      if_neg fun hc => h ⟨hrendering, hfirst, hlast, hc⟩, addressUpdates_eq]
  · rw [afterRender_of_not_line fixed hline]

/-- Settles O28: a fetch cycle leaves what its sub-cycle leaves of the shifted PPU, any other tick the old pipeline; the
addresses are concatenations of fields. -/
theorem backgroundPipelineFetches : Obligations.BackgroundPipelineFetches := by
  refine ⟨?fetch, ?hold, loadLow_toNat, rfl, rfl, fun p => ?addresses⟩
  case fetch =>
    intro s p q sub hrendering hfirst hlast hcycle
    have htick := ppuTick_render s
    rw [afterRender_of_line s.fixed ⟨hrendering, hfirst, hlast⟩, Ppu.fetched, if_pos hcycle, addressUpdates_eq,
      bgSubCycle_eq] at htick
    exact ⟨congrArg Ppu.bgPatLo htick, congrArg Ppu.bgPatHi htick, congrArg Ppu.bgAttrLo htick,
      congrArg Ppu.bgAttrHi htick, congrArg Ppu.nextTileId htick, congrArg Ppu.nextAttr htick,
      congrArg Ppu.nextPatLo htick, congrArg Ppu.nextPatHi htick⟩
  case hold =>
    intro s p q hidle
    have hq : q = _ := ppuTick_render s
    rw [hq, afterRender_idle s.fixed hidle]
    exact ⟨rfl, rfl, rfl, rfl, rfl, rfl, rfl, rfl⟩
  case addresses =>
    exact ⟨nametableAddr_toNat p.v, attributeAddr_toNat p.v, attributeShift_eq p.v,
      bgPatternAddr_toNat p⟩

end Sys2Proof.Machine
end

section
/-! PROOF. Sprite evaluation (51_ppu_rendering.md R309 to R311): the scan of OAM from any state of its counters, by
induction on the entries still to scan, and the whole evaluation as the scan from zero. -/

namespace Sys2Proof.Machine

/-- The entries that match on the current scanline, in OAM order (51_ppu_rendering.md R310). -/
def Ppu.matching (p : Ppu) (l : List Nat) : List Nat := l.filter (spriteMatches p)

/-- An entry matches when its rows reach the current scanline (51_ppu_rendering.md R310, R311). -/
theorem matching_eq_filter (p : Ppu) (l : List Nat) :
    p.matching l = l.filter fun n =>
      decide (((Memory.read p.oam (4 * n)).toNat : Int) ≤ p.scanline) &&
        decide (p.scanline < (Memory.read p.oam (4 * n)).toNat + if p.ctrl.getLsbD 5 then 16 else 8) := by
  refine List.filter_congr fun n _ => ?_
  unfold spriteMatches spriteRow oamByte Ppu.spriteHeight
  rw [Nat.add_zero]
  congr 2 <;> simp only [eq_iff_iff] <;> omega

/-! The scan -/

/-- The scan passes an entry that does not match. -/
theorem scanOam_skip {p : Ppu} {n : Nat} (h : ¬spriteMatches p n = true) (rest : List Nat) :
    scanOam (n :: rest) p = scanOam rest p := by
  rw [scanOam, if_neg h]

/-- The PPU after a matching entry was copied to the next place of secondary OAM. -/
def Ppu.takeEntry (n : Nat) (p : Ppu) : Ppu :=
  { p with
    secOam := copyEntry p n p.spriteCount, spr0Next := p.spr0Next || decide (n = 0), spriteCount := p.spriteCount + 1 }

/-- The scan copies a matching entry while there is room. -/
theorem scanOam_take {p : Ppu} {n : Nat} (h : spriteMatches p n = true) (hroom : p.spriteCount < 8) (rest : List Nat) :
    scanOam (n :: rest) p = scanOam rest (p.takeEntry n) := by
  rw [scanOam, if_pos h, if_pos hroom]
  rfl

/-- The scan stops at a matching entry without room and sets the overflow bit. -/
theorem scanOam_stop {p : Ppu} {n : Nat} (h : spriteMatches p n = true) (hfull : ¬p.spriteCount < 8) (rest : List Nat) :
    scanOam (n :: rest) p = { p with status := p.status ||| 0x20 } := by
  rw [scanOam, if_pos h, if_neg hfull]

theorem matching_skip {p : Ppu} {n : Nat} (h : ¬spriteMatches p n = true) (rest : List Nat) :
    p.matching (n :: rest) = p.matching rest := List.filter_cons_of_neg h

theorem matching_take {p : Ppu} {n : Nat} (h : spriteMatches p n = true) (rest : List Nat) :
    p.matching (n :: rest) = n :: p.matching rest := List.filter_cons_of_pos h

/-- The count and the overflow bit after a scan: the matches fill the places up to eight, and a ninth overflows. -/
theorem scanOam_count (l : List Nat) {p : Ppu} (hc : p.spriteCount ≤ 8) :
    (scanOam l p).spriteCount = min 8 (p.spriteCount + (p.matching l).length) ∧
    (scanOam l p).status =
      if 8 < p.spriteCount + (p.matching l).length then p.status ||| 0x20 else p.status := by
  induction l generalizing p with
  | nil => exact ⟨(Nat.min_eq_right hc).symm, (if_neg (Nat.not_lt.mpr hc)).symm⟩
  | cons n rest ih =>
    by_cases hm : spriteMatches p n = true
    · by_cases hroom : p.spriteCount < 8
      · obtain ⟨hcount, hstatus⟩ := ih (p := p.takeEntry n) hroom
        have hlength : (p.takeEntry n).spriteCount + ((p.takeEntry n).matching rest).length =
            p.spriteCount + (p.matching (n :: rest)).length := by
          rw [matching_take hm, List.length_cons, Nat.add_comm _ 1, ← Nat.add_assoc]
          rfl
        rw [scanOam_take hm hroom, hcount, hstatus, hlength]
        exact ⟨rfl, rfl⟩
      · rw [scanOam_stop hm hroom, matching_take hm, List.length_cons, if_pos (by omega)]
        exact ⟨by dsimp only; omega, rfl⟩
    · rw [scanOam_skip hm, matching_skip hm]
      exact ih hc

/-- The entry-0 flag after a scan: entry 0 is among the matches that were copied. -/
theorem scanOam_spr0Next (l : List Nat) (p : Ppu) :
    (scanOam l p).spr0Next = (p.spr0Next || decide (0 ∈ (p.matching l).take (8 - p.spriteCount))) := by
  induction l generalizing p with
  | nil => simp [scanOam, Ppu.matching]
  | cons n rest ih =>
    by_cases hm : spriteMatches p n = true
    · by_cases hroom : p.spriteCount < 8
      · have hplaces : 8 - p.spriteCount = 8 - (p.spriteCount + 1) + 1 := by omega
        rw [scanOam_take hm hroom, ih, matching_take hm, hplaces, List.take_succ_cons]
        simp only [List.mem_cons, Bool.decide_or, ← Bool.or_assoc]
        rw [decide_eq_decide.mpr (eq_comm (a := 0) (b := n))]
        rfl
      · rw [scanOam_stop hm hroom, show 8 - p.spriteCount = 0 by omega]
        simp
    · rw [scanOam_skip hm, matching_skip hm]
      exact ih p

/-- The bytes of secondary OAM after an entry was copied to place `i`. -/
theorem read_copyEntry {p : Ppu} (hp : Memory.wf 0 32 p.secOam) (n : Nat) {i : Nat} (hi : i < 8) (a : Nat) :
    Memory.read (copyEntry p n i) a =
      if 4 * i ≤ a ∧ a < 4 * i + 4 then oamByte p n (a - 4 * i) else Memory.read p.secOam a := by
  have h0 := Memory.wf_write (Nat.zero_le _) (show 4 * i + 0 < 32 by omega) hp (oamByte p n 0)
  have h1 := Memory.wf_write (Nat.zero_le _) (show 4 * i + 1 < 32 by omega) h0 (oamByte p n 1)
  have h2 := Memory.wf_write (Nat.zero_le _) (show 4 * i + 2 < 32 by omega) h1 (oamByte p n 2)
  have hcopy : copyEntry p n i = Memory.write (Memory.write (Memory.write (Memory.write p.secOam (4 * i + 0)
      (oamByte p n 0)) (4 * i + 1) (oamByte p n 1)) (4 * i + 2) (oamByte p n 2)) (4 * i + 3) (oamByte p n 3) := rfl
  rw [hcopy, Memory.read_write h2, Memory.read_write h1, Memory.read_write h0, Memory.read_write hp]
  by_cases hin : 4 * i ≤ a ∧ a < 4 * i + 4
  · obtain ⟨k, rfl⟩ : ∃ k, a = 4 * i + k := ⟨a - 4 * i, by omega⟩
    have hk : k < 4 := by omega
    rw [if_pos hin, Nat.add_sub_cancel_left]
    interval_cases k <;> simp
  · rw [if_neg hin, if_neg (by omega), if_neg (by omega), if_neg (by omega), if_neg (by omega)]

/-- Secondary OAM after a scan: the places before the count keep their bytes, the places from it on hold the matches in
order. -/
theorem scanOam_secOam (l : List Nat) {p : Ppu} (hp : Memory.wf 0 32 p.secOam) :
    (∀ a < 4 * p.spriteCount, Memory.read (scanOam l p).secOam a = Memory.read p.secOam a) ∧
    ∀ j n, p.spriteCount + j < 8 → (p.matching l)[j]? = some n →
      ∀ k < 4, Memory.read (scanOam l p).secOam (4 * (p.spriteCount + j) + k) = oamByte p n k := by
  induction l generalizing p with
  | nil => exact ⟨fun _ _ => rfl, fun j n _ hn => by simp [Ppu.matching] at hn⟩
  | cons m rest ih =>
    by_cases hm : spriteMatches p m = true
    · by_cases hroom : p.spriteCount < 8
      · obtain ⟨hbefore, hmatches⟩ := ih (p := p.takeEntry m) (wf_copyEntry hp m hroom)
        rw [scanOam_take hm hroom, matching_take hm]
        have hkept : ∀ a < 4 * (p.spriteCount + 1), Memory.read (scanOam rest (p.takeEntry m)).secOam a =
            if 4 * p.spriteCount ≤ a ∧ a < 4 * p.spriteCount + 4 then oamByte p m (a - 4 * p.spriteCount)
            else Memory.read p.secOam a := fun a ha => (hbefore a ha).trans (read_copyEntry hp m hroom a)
        refine ⟨fun a ha => ?_, fun j n hj hn k hk => ?_⟩
        · rw [hkept a (by omega), if_neg (by omega)]
        · cases j with
          | zero =>
            obtain rfl : m = n := by simpa using hn
            rw [Nat.add_zero, hkept _ (by omega), if_pos (by omega), Nat.add_sub_cancel_left]
          | succ j =>
            have hplace : p.spriteCount + (j + 1) = (p.takeEntry m).spriteCount + j := by
              rw [Nat.add_comm j, ← Nat.add_assoc]
              rfl
            rw [hplace] at hj ⊢
            exact hmatches j n hj hn k hk
      · rw [scanOam_stop hm hroom]
        exact ⟨fun _ _ => rfl, fun j n hj => absurd hj (by omega)⟩
    · rw [scanOam_skip hm, matching_skip hm]
      exact ih hp

/-! The evaluation -/

/-- The PPU as the evaluation starts its scan (51_ppu_rendering.md R310). -/
def Ppu.clearedForScan (p : Ppu) : Ppu := { p with secOam := clearSecOam p.secOam, spriteCount := 0, spr0Next := false }

theorem spriteEvaluate_eq (p : Ppu) : spriteEvaluate p = scanOam (List.range 64) p.clearedForScan := rfl

theorem wf_clearedForScan {p : Ppu} (hp : Memory.wf 0 32 p.secOam) : Memory.wf 0 32 p.clearedForScan.secOam := by
  have hcleared : p.clearedForScan.secOam = clearSecOam p.secOam := by simp only [Ppu.clearedForScan]
  rw [hcleared]
  exact wf_clearSecOam hp

/-- The count and the overflow bit after an evaluation. -/
theorem spriteEvaluate_count (p : Ppu) :
    (spriteEvaluate p).spriteCount = min 8 (p.matching (List.range 64)).length ∧
    (spriteEvaluate p).status =
      if 8 < (p.matching (List.range 64)).length then p.status ||| 0x20 else p.status := by
  have h := scanOam_count (List.range 64) (p := p.clearedForScan) (Nat.zero_le 8)
  rw [show p.clearedForScan.spriteCount = 0 from rfl, Nat.zero_add] at h
  exact h

/-- Entry 0 is flagged exactly when it matches: no entry comes before it (51_ppu_rendering.md R310). -/
theorem spriteEvaluate_spr0Next (p : Ppu) :
    (spriteEvaluate p).spr0Next = true ↔ 0 ∈ p.matching (List.range 64) := by
  have hflag : (spriteEvaluate p).spr0Next = decide (0 ∈ (p.matching (List.range 64)).take 8) := by
    rw [spriteEvaluate_eq, scanOam_spr0Next]
    exact Bool.false_or _
  rw [hflag, decide_eq_true_iff]
  refine ⟨List.mem_of_mem_take, fun h => ?_⟩
  have hm : spriteMatches p 0 = true := (List.mem_filter.mp h).2
  have hfirst : List.range 64 = 0 :: (List.range 63).map Nat.succ := List.range_succ_eq_map
  rw [hfirst, matching_take hm, List.take_succ_cons]
  exact List.mem_cons_self

/-- The copied entries after an evaluation: the matches in order (51_ppu_rendering.md R310). -/
theorem spriteEvaluate_secOam {p : Ppu} (hp : Memory.wf 0 32 p.secOam) {j n : Nat} (hj : j < 8)
    (hn : (p.matching (List.range 64))[j]? = some n) {k : Nat} (hk : k < 4) :
    Memory.read (spriteEvaluate p).secOam (4 * j + k) = Memory.read p.oam (4 * n + k) := by
  have hmatching : ∀ l, p.clearedForScan.matching l = p.matching l := fun _ => rfl
  have hplace : p.clearedForScan.spriteCount + j = j := Nat.zero_add j
  obtain ⟨-, hentries⟩ := scanOam_secOam (List.range 64) (wf_clearedForScan hp)
  have h := hentries j n
  rw [hplace, hmatching, ← spriteEvaluate_eq] at h
  exact h hj hn k hk

/-- Settles O34: the scan of all entries from cleared counters. -/
theorem spriteEvaluationKeepsTheFirstEight : Obligations.SpriteEvaluationKeepsTheFirstEight := by
  intro p hp height y found q
  have hfound : found = p.matching (List.range 64) := (matching_eq_filter p _).symm
  obtain ⟨hcount, hstatus⟩ := spriteEvaluate_count p
  rw [hfound]
  exact ⟨spriteEvaluate_frame p, hcount, hstatus, spriteEvaluate_spr0Next p,
    fun j n hj hn k hk => spriteEvaluate_secOam hp hj hn hk⟩

end Sys2Proof.Machine
end

section
/-! PROOF. A PPU tick on the status, the sprites, the CPU and the trace (51_ppu_rendering.md R291, R309 to R327): what the
status events and the pixel stage each write, and the whole tick by whether it is visible and whether it renders. -/

namespace Sys2Proof.Machine

/-! The stages, where they write less -/

/-- A tick that draws (51_ppu_rendering.md R317). -/
abbrev Ppu.visible (p : Ppu) : Prop := 0 ≤ p.scanline ∧ p.scanline ≤ 239 ∧ p.cycle ≤ 255

/-- The tick that clears the status and the slots (51_ppu_rendering.md R323). -/
abbrev Ppu.atClear (p : Ppu) : Prop := p.scanline = -1 ∧ p.cycle = 0

/-- The tick that enters VBlank (51_ppu_rendering.md R325). -/
abbrev Ppu.atVblank (p : Ppu) : Prop := p.scanline = 241 ∧ p.cycle = 0

theorem afterEvents_atClear {p : Ppu} (h : p.atClear) : p.afterEvents = prerenderClear p := by
  rw [Ppu.afterEvents, if_pos h]

theorem afterEvents_atVblank {p : Ppu} (h : p.atVblank) : p.afterEvents = { p with status := p.status ||| 0x80 } := by
  rw [Ppu.afterEvents, if_neg (by omega), if_pos h]

theorem afterEvents_quiet {p : Ppu} (hc : ¬p.atClear) (hv : ¬p.atVblank) : p.afterEvents = p := by
  rw [Ppu.afterEvents, if_neg hc, if_neg hv]

/-- Outside the tick at (-1, 0) the status events write the status alone. -/
theorem afterEvents_notClear {p : Ppu} (hc : ¬p.atClear) :
    p.afterEvents = { p with status := p.afterEvents.status } := by
  by_cases hv : p.atVblank
  · rw [afterEvents_atVblank hv]
  · rw [afterEvents_quiet hc hv]

/-- The pixel stage of a tick that is not visible or does not render writes the status alone. -/
theorem afterPixel_idle (fixed : Fixed) {p : Ppu} (h : ¬(p.renderingEnabled = true ∧ p.visible)) :
    p.afterPixel fixed = { p with status := (p.afterPixel fixed).status } := by
  by_cases hv : p.visible
  · have hmark : spriteCycle fixed (markSpriteZeroHit fixed p) = markSpriteZeroHit fixed p := by
      rw [spriteCycle, if_neg]
      rw [markSpriteZeroHit_frame]
      exact fun hr => h ⟨hr, hv⟩
    rw [Ppu.afterPixel, if_pos hv, hmark]
    exact markSpriteZeroHit_frame fixed p
  · rw [Ppu.afterPixel, if_neg hv]

/-! Sprites in a tick that does not step them -/

/-- A tick that is not visible or does not render writes nothing of the sprites but for the clear at (-1, 0). -/
theorem ppuTick_sprites_idle {s : State} (h : ¬(s.ppu.renderingEnabled = true ∧ s.ppu.visible)) :
    (ppuTick s).ppu.secOam = s.ppu.secOam ∧ (ppuTick s).ppu.spr0Next = s.ppu.spr0Next ∧
    (¬s.ppu.atClear → (ppuTick s).ppu.slots = s.ppu.slots ∧ (ppuTick s).ppu.spriteCount = s.ppu.spriteCount ∧
      (ppuTick s).ppu.spr0Line = s.ppu.spr0Line) := by
  have hidle : ¬((s.ppu.afterEvents.afterRender s.fixed).renderingEnabled = true ∧
      (s.ppu.afterEvents.afterRender s.fixed).visible) := by
    rw [afterRender_frame, afterEvents_frame]
    exact h
  rw [ppuTick_ppu, afterAdvance_frame, afterPixel_idle s.fixed hidle, afterRender_frame]
  refine ⟨?_, ?_, fun hc => ?_⟩
  · rw [afterEvents_frame]
  · rw [afterEvents_frame]
  · rw [afterEvents_notClear hc]
    exact ⟨rfl, rfl, rfl⟩

/-- Settles O27: the tick's frame is that of its stages; without rendering only the status events and the position
remain. -/
theorem renderingGateHoldsThePpu : Obligations.RenderingGateHoldsThePpu := by
  intro s p q
  have hrender := ppuTick_render s
  refine ⟨?frame, fun h3 h4 => ?disabled⟩
  case frame =>
    rw [show q = _ from hrender, afterRender_frame]
    exact ⟨rfl, rfl, rfl, rfl, rfl, rfl, rfl, rfl, rfl⟩
  case disabled =>
    have hoff : ¬p.renderingEnabled = true := by rw [Ppu.renderingEnabled, h3, h4]; decide
    obtain ⟨hsecOam, hnext, hslots⟩ := ppuTick_sprites_idle (s := s) fun h => hoff h.1
    rw [afterRender_of_not_line s.fixed fun h => hoff h.1, Ppu.SameButSprites, hsecOam, hnext] at hrender
    exact ⟨hrender, hslots⟩

/-! The CPU in a tick -/

/-- Entering NMI does not see the PPU. -/
theorem enterNmi_setPpu (p : Ppu) (s : State) : enterNmi (s.setPpu p) = (enterNmi s).setPpu p := by
  rw [enterNmi, enterNmi, enterInterrupt_ram (by decide) (by decide), enterInterrupt_ram (by decide) (by decide)]
  rfl

/-- The status events enter NMI exactly at VBlank with control bit 7 set (60_exceptions.md R375). -/
theorem statusEvents_cpu (s : State) :
    let t := if s.ppu.atVblank ∧ s.ppu.ctrl.getLsbD 7 = true then enterNmi s else s
    (statusEvents s).cpu = t.cpu ∧ (statusEvents s).ram = t.ram := by
  unfold statusEvents vblankEntry
  by_cases hc : s.ppu.atClear
  · rw [if_pos hc, if_neg (by omega)]
    exact ⟨rfl, rfl⟩
  · by_cases hv : s.ppu.atVblank
    · rw [if_neg hc, if_pos hv]
      by_cases hn : s.ppu.ctrl.getLsbD 7 = true
      · rw [if_pos hn, if_pos ⟨hv, hn⟩, enterNmi_setPpu]
        exact ⟨rfl, rfl⟩
      · rw [if_neg hn, if_neg fun h => hn h.2]
        exact ⟨rfl, rfl⟩
    · rw [if_neg hc, if_neg hv, if_neg fun h => hv h.1]
      exact ⟨rfl, rfl⟩

/-- Settles O29: only the status events touch the CPU, and of them only the NMI. -/
theorem nmiOnlyAtVblankEntry : Obligations.NmiOnlyAtVblankEntry := by
  intro s nmi
  obtain ⟨hfixed, hfatal, hdma, hg, hjoypad, hcpu, hram⟩ := ppuTick_frame s
  obtain ⟨hcpu', hram'⟩ := statusEvents_cpu s
  rw [hcpu, hram, hcpu', hram']
  refine ⟨fun h => ?_, fun h => ?_, hdma, hfatal, hjoypad, hfixed, hg⟩
  · obtain ⟨hline, hcycle, hctrl⟩ := h
    rw [if_pos ⟨⟨hline, hcycle⟩, hctrl⟩]
    exact ⟨rfl, rfl⟩
  · rw [if_neg fun hn => h ⟨hn.1.1, hn.1.2, hn.2⟩]
    exact ⟨rfl, rfl⟩

/-! The trace -/

/-- With rendering disabled the colour is the backdrop's (51_ppu_rendering.md R322). -/
theorem pixelColor_disabled (fixed : Fixed) {p : Ppu} (h : p.renderingEnabled = false) :
    pixelColor fixed p = Memory.read p.pal 0 := by
  obtain ⟨h3, h4⟩ := Bool.or_eq_false_iff.mp h
  simp only [pixelColor, backgroundPixel, foregroundPixel, h3, h4, Bool.false_eq_true, if_false]
  rfl

/-- A visible tick has no status event. -/
theorem statusEvents_visible {s : State} (h : s.ppu.visible) : statusEvents s = s := by
  rw [statusEvents, if_neg (by omega), if_neg (by omega)]

/-- A visible tick adds one `drawPixel` (51_ppu_rendering.md R317). -/
theorem ppuTick_trace_visible {s : State} (h : s.ppu.visible) :
    (ppuTick s).trace =
      .drawPixel s.ppu.cycle s.ppu.scanline.toNat (pixelColor s.fixed (renderStage s).ppu) :: s.trace := by
  obtain ⟨hline, hcycle⟩ := Ppu.afterPixel_position s.fixed s.ppu
  have hrender : (renderStage s).ppu.scanline = s.ppu.scanline ∧ (renderStage s).ppu.cycle = s.ppu.cycle := by
    rw [renderStage_eq, State.setPpu_ppu, afterRender_frame]
    exact ⟨rfl, rfl⟩
  rw [ppuTick, statusEvents_visible h, advancePosition_eq, pixelStage_eq]
  have hpixel : ((renderStage s).ppu.afterPixel (renderStage s).fixed).cycle = s.ppu.cycle := by
    rw [afterPixel_frame]
    exact hrender.2
  dsimp only
  rw [if_pos (by omega), if_pos (by rw [hrender.1, hrender.2]; exact h), hrender.1, hrender.2, renderStage_eq]
  rfl

/-- A tick that is not visible adds at most `presentFrame` (51_ppu_rendering.md R326). -/
theorem ppuTick_trace_notVisible {s : State} (h : ¬s.ppu.visible) :
    (ppuTick s).trace = s.trace ∨ (ppuTick s).trace = .presentFrame :: s.trace := by
  obtain ⟨hppu, hfixed, htrace, -⟩ := statusEvents_spec s
  have hrender : ¬(renderStage (statusEvents s)).ppu.visible := by
    rw [renderStage_eq, State.setPpu_ppu, hppu, afterRender_frame, afterEvents_frame]
    exact h
  rw [ppuTick, advancePosition_eq, pixelStage_eq]
  dsimp only
  rw [if_neg hrender, renderStage_eq, State.setPpu_trace, htrace]
  split
  · exact .inl rfl
  · exact .inr rfl

/-- Settles O31: the pixel stage of a visible tick adds the pixel, and the advance at most a frame. -/
theorem everyVisibleTickDrawsOnePixel : Obligations.EveryVisibleTickDrawsOnePixel := by
  intro s visible color
  refine ⟨ppuTick_trace_visible, fun _ hoff => ?_, ppuTick_trace_notVisible⟩
  have hrender : (renderStage s).ppu = s.ppu := by
    rw [renderStage_eq, State.setPpu_ppu, afterRender_of_not_line s.fixed fun h => Bool.false_ne_true (hoff.symm.trans h.1)]
  rw [show color = pixelColor s.fixed (renderStage s).ppu from rfl, hrender]
  exact pixelColor_disabled s.fixed hoff

end Sys2Proof.Machine
end

section
/-! PROOF. The status bits and the sprite slots over a whole PPU tick (51_ppu_rendering.md R309, R316, R320, R323, R325):
what the sprite stage writes, and that evaluation and fetch read only OAM, its copies and the position. -/

namespace Sys2Proof.Machine

/-! What evaluation and fetch read -/

/-- Two PPUs that sprite evaluation treats alike. -/
structure Ppu.SameForScan (p q : Ppu) : Prop where
  oam : q.oam = p.oam
  ctrl : q.ctrl = p.ctrl
  scanline : q.scanline = p.scanline
  secOam : q.secOam = p.secOam
  spriteCount : q.spriteCount = p.spriteCount
  spr0Next : q.spr0Next = p.spr0Next

namespace Ppu.SameForScan

variable {p q : Ppu}

theorem oamByte (h : p.SameForScan q) (n k : Nat) : Machine.oamByte q n k = Machine.oamByte p n k := by
  rw [Machine.oamByte, Machine.oamByte, h.oam]

theorem spriteMatches (h : p.SameForScan q) (n : Nat) : Machine.spriteMatches q n = Machine.spriteMatches p n := by
  rw [Machine.spriteMatches, Machine.spriteMatches, spriteRow, spriteRow, Ppu.spriteHeight, Ppu.spriteHeight, h.oamByte,
    h.ctrl, h.scanline]

theorem matching (h : p.SameForScan q) (l : List Nat) : q.matching l = p.matching l :=
  List.filter_congr fun n _ => h.spriteMatches n

theorem takeEntry (h : p.SameForScan q) (n : Nat) : (p.takeEntry n).SameForScan (q.takeEntry n) where
  oam := h.oam
  ctrl := h.ctrl
  scanline := h.scanline
  secOam := by
    simp only [Ppu.takeEntry, copyEntry, h.oamByte, h.secOam, h.spriteCount]
  spriteCount := congrArg (· + 1) h.spriteCount
  spr0Next := congrArg (· || decide (n = 0)) h.spr0Next

theorem scanOam (l : List Nat) (h : p.SameForScan q) : (Machine.scanOam l p).SameForScan (Machine.scanOam l q) := by
  induction l generalizing p q with
  | nil => exact h
  | cons n rest ih =>
    by_cases hm : Machine.spriteMatches p n = true
    · have hm' := (h.spriteMatches n).trans hm
      by_cases hroom : p.spriteCount < 8
      · rw [scanOam_take hm hroom, scanOam_take hm' (h.spriteCount ▸ hroom)]
        exact ih (h.takeEntry n)
      · rw [scanOam_stop hm hroom, scanOam_stop hm' (h.spriteCount ▸ hroom)]
        exact { h with }
    · rw [scanOam_skip hm, scanOam_skip (by rwa [h.spriteMatches])]
      exact ih h

theorem spriteEvaluate (h : p.SameForScan q) : (Machine.spriteEvaluate p).SameForScan (Machine.spriteEvaluate q) := by
  rw [spriteEvaluate_eq, spriteEvaluate_eq]
  refine scanOam _ { h with secOam := ?_, spriteCount := rfl, spr0Next := rfl }
  simp only [Ppu.clearedForScan, h.secOam]

/-- The fetch of a slot reads secondary OAM, the control register, the line and the PPU bus. -/
theorem fetchSlot (h : p.SameForScan q) (hnt : q.nt = p.nt) (hpal : q.pal = p.pal) (fixed : Fixed) (i : Nat) :
    Machine.fetchSlot fixed q i = Machine.fetchSlot fixed p i := by
  simp only [Machine.fetchSlot, ppuRead, h.secOam, h.ctrl, h.scanline, hnt, hpal]

end Ppu.SameForScan

/-! The sprite stage -/

theorem markSpriteZeroHit_status (fixed : Fixed) (p : Ppu) :
    (markSpriteZeroHit fixed p).status = if spriteZeroHit fixed p then p.status ||| 0x40 else p.status := by
  unfold markSpriteZeroHit
  split <;> rfl

/-- The sprite stage with rendering enabled, before cycle 255 (51_ppu_rendering.md R316). -/
theorem spriteCycle_step (fixed : Fixed) {p : Ppu} (hon : p.renderingEnabled = true) (hc : p.cycle ≠ 255) :
    spriteCycle fixed p = spriteStep p := by
  rw [spriteCycle, if_pos hon]
  exact if_neg hc

/-- The sprite stage with rendering enabled at cycle 255 (51_ppu_rendering.md R309). -/
theorem spriteCycle_fetch (fixed : Fixed) {p : Ppu} (hon : p.renderingEnabled = true) (hc : p.cycle = 255) :
    spriteCycle fixed p = spriteFetch fixed (spriteEvaluate (spriteStep p)) := by
  rw [spriteCycle, if_pos hon]
  exact if_pos hc

theorem spriteCycle_off (fixed : Fixed) {p : Ppu} (hoff : ¬p.renderingEnabled = true) : spriteCycle fixed p = p := by
  rw [spriteCycle, if_neg hoff]

/-- The sprite stage writes no status but the overflow bit of its evaluation (51_ppu_rendering.md R311). -/
theorem spriteCycle_status (fixed : Fixed) (p : Ppu) :
    (spriteCycle fixed p).status =
      if (p.renderingEnabled = true ∧ p.cycle = 255) ∧ 8 < (p.matching (List.range 64)).length then p.status ||| 0x20
      else p.status := by
  by_cases hon : p.renderingEnabled = true
  · by_cases hc : p.cycle = 255
    · obtain ⟨-, hstatus⟩ := spriteEvaluate_count (spriteStep p)
      rw [spriteCycle_fetch fixed hon hc, spriteFetch]
      simp only [hon, hc, true_and]
      exact hstatus
    · rw [spriteCycle_step fixed hon hc, if_neg fun h => hc h.1.2]
      rfl
  · rw [spriteCycle_off fixed hon, if_neg fun h => hon h.1.1]

/-! The whole tick -/

/-- The PPU that the sprite stage of a visible tick starts from. -/
def State.beforeSprites (s : State) : Ppu := markSpriteZeroHit s.fixed (renderStage s).ppu

/-- Up to the sprite stage a tick has written what its rendering stage writes and the status. -/
theorem beforeSprites_frame (s : State) :
    s.beforeSprites = { s.ppu.afterRender s.fixed with status := s.beforeSprites.status } := by
  rw [State.beforeSprites, renderStage_eq, State.setPpu_ppu]
  exact markSpriteZeroHit_frame s.fixed _

theorem beforeSprites_status (s : State) :
    s.beforeSprites.status =
      if spriteZeroHit s.fixed (renderStage s).ppu then s.ppu.status ||| 0x40 else s.ppu.status := by
  rw [State.beforeSprites, markSpriteZeroHit_status, renderStage_eq, State.setPpu_ppu, afterRender_frame]

/-- Sprite evaluation sees before the sprite stage what it would see before the tick. -/
theorem sameForScan_beforeSprites (s : State) : s.ppu.SameForScan (spriteStep s.beforeSprites) := by
  constructor <;> (rw [beforeSprites_frame, afterRender_frame]; rfl)

theorem beforeSprites_gate (s : State) :
    s.beforeSprites.renderingEnabled = s.ppu.renderingEnabled ∧ s.beforeSprites.cycle = s.ppu.cycle := by
  rw [beforeSprites_frame, afterRender_frame]
  exact ⟨rfl, rfl⟩

theorem ppuTick_status_visible {s : State} (h : s.ppu.visible) :
    (ppuTick s).ppu.status =
      if (s.ppu.renderingEnabled = true ∧ s.ppu.cycle = 255) ∧ 8 < (s.ppu.matching (List.range 64)).length then
        s.beforeSprites.status ||| 0x20
      else s.beforeSprites.status := by
  have hmatching : ∀ l, s.beforeSprites.matching l = s.ppu.matching l := (sameForScan_beforeSprites s).matching
  obtain ⟨hon, hcycle⟩ := beforeSprites_gate s
  rw [ppuTick_visible h, afterAdvance_frame]
  exact (spriteCycle_status s.fixed s.beforeSprites).trans (by rw [hon, hcycle, hmatching])

theorem ppuTick_status_notVisible {s : State} (h : ¬s.ppu.visible) :
    (ppuTick s).ppu.status = s.ppu.afterEvents.status := by
  rw [ppuTick_notVisible h, afterAdvance_frame, afterRender_frame]

/-- The bits of a byte after one was set under a condition. -/
theorem getLsbD_setBit (c : Prop) [Decidable c] (b : Byte) {m : Byte} {k : Nat} (hm : m = BitVec.twoPow 8 k) (i : Nat) :
    (if c then b ||| m else b).getLsbD i = (b.getLsbD i || (decide (k < 8 ∧ k = i) && decide c)) := by
  subst hm
  by_cases hc : c
  · rw [if_pos hc, BitVec.getLsbD_or, BitVec.getLsbD_twoPow, decide_eq_true hc, Bool.and_true, Bool.decide_and]
  · rw [if_neg hc, decide_eq_false hc, Bool.and_false, Bool.or_false]

/-- The status of a visible tick, bit by bit: the sprite-0 hit in bit 6, the overflow in bit 5. -/
theorem ppuTick_statusBit_visible {s : State} (h : s.ppu.visible) (i : Nat) :
    (ppuTick s).ppu.status.getLsbD i =
      ((s.ppu.status.getLsbD i || (decide (6 < 8 ∧ 6 = i) && spriteZeroHit s.fixed (renderStage s).ppu)) ||
        (decide (5 < 8 ∧ 5 = i) &&
          decide ((s.ppu.renderingEnabled = true ∧ s.ppu.cycle = 255) ∧ 8 < (s.ppu.matching (List.range 64)).length))) := by
  rw [ppuTick_status_visible h, getLsbD_setBit _ _ (show (0x20 : Byte) = BitVec.twoPow 8 5 by decide),
    beforeSprites_status, getLsbD_setBit _ _ (show (0x40 : Byte) = BitVec.twoPow 8 6 by decide), Bool.decide_eq_true]

/-- A tick that is not visible and does not clear the status writes bit 7 alone. -/
theorem ppuTick_statusBit_notVisible {s : State} (h : ¬s.ppu.visible) (hc : ¬s.ppu.atClear) {i : Nat} (hi : i ≠ 7) :
    (ppuTick s).ppu.status.getLsbD i = s.ppu.status.getLsbD i := by
  rw [ppuTick_status_notVisible h]
  by_cases hv : s.ppu.atVblank
  · have hbit : (0x80 : Byte) = BitVec.twoPow 8 7 := by decide
    rw [afterEvents_atVblank hv, hbit, BitVec.getLsbD_or, BitVec.getLsbD_twoPow, decide_eq_false hi.symm, Bool.and_false,
      Bool.or_false]
  · rw [afterEvents_quiet hc hv]

/-- Settles O30: the status events in the two ticks of a frame that have them, the sprite stage in the visible ticks. -/
theorem statusEventsAtTheirPositions : Obligations.StatusEventsAtTheirPositions := by
  intro s
  dsimp only
  have hquiet : ¬s.ppu.visible → ¬s.ppu.atVblank → ¬s.ppu.atClear → (ppuTick s).ppu.status = s.ppu.status :=
    fun hvis hv hc => by rw [ppuTick_status_notVisible hvis, afterEvents_quiet hc hv]
  refine ⟨fun hline hcycle => ?vblank, fun hline hcycle hlow => ?clear, fun hv hc => ?kept, fun hline hv => ?lower,
    ⟨fun hvis => ?hit, fun hvis hc => ?noHit⟩, fun he => ?overflow, fun he hc => ?noOverflow⟩
  case vblank => rw [ppuTick_status_notVisible (by omega), afterEvents_atVblank ⟨hline, hcycle⟩]
  case clear =>
    rw [ppuTick_notVisible (by omega), afterAdvance_frame, afterRender_frame, afterEvents_atClear ⟨hline, hcycle⟩]
    exact ⟨hlow, rfl, rfl, rfl⟩
  case kept =>
    by_cases hvis : s.ppu.visible
    · simp only [ppuTick_statusBit_visible hvis]
      refine ⟨by simp, fun h => by simp [h], fun h => by simp [h]⟩
    · rw [hquiet hvis hv hc]
      exact ⟨rfl, id, id⟩
  case lower =>
    have hc : ¬s.ppu.atClear := by omega
    rw [ppuTick_notVisible (by omega), afterEvents_quiet hc hv, afterRender_of_not_line s.fixed (by omega)]
    exact afterAdvance_frame s.ppu
  case hit => rw [ppuTick_statusBit_visible hvis]; simp
  case noHit => exact ppuTick_statusBit_notVisible hvis hc (by decide)
  case overflow =>
    obtain ⟨hon, h0, h239, h255⟩ := he
    rw [ppuTick_statusBit_visible ⟨h0, h239, by omega⟩, matching_eq_filter]
    simp [hon, h255]
  case noOverflow =>
    by_cases hvis : s.ppu.visible
    · have hlate : ¬(s.ppu.renderingEnabled = true ∧ s.ppu.cycle = 255) := fun h => he ⟨h.1, hvis.1, hvis.2.1, h.2⟩
      have hnone := not_and.mpr fun h (_ : 8 < (s.ppu.matching (List.range 64)).length) => hlate h
      rw [ppuTick_statusBit_visible hvis, decide_eq_false hnone]
      simp
    · exact ppuTick_statusBit_notVisible hvis hc (by decide)

/-- A slot's step, in numbers (51_ppu_rendering.md R316). -/
theorem stepSlot_eq (l : SpriteSlot) :
    stepSlot l = if l.x = 0 then
        { l with patLo := BitVec.ofNat 8 (2 * l.patLo.toNat), patHi := BitVec.ofNat 8 (2 * l.patHi.toNat) }
      else { l with x := BitVec.ofNat 8 (l.x.toNat - 1) } := by
  have hshift : ∀ b : Byte, b <<< 1 = BitVec.ofNat 8 (2 * b.toNat) := fun b => by bv_omega
  unfold stepSlot
  by_cases hx : l.x = 0
  · rw [if_pos hx, if_pos hx, hshift, hshift]
  · rw [if_neg hx, if_neg hx, show l.x - 1 = BitVec.ofNat 8 (l.x.toNat - 1) by bv_omega]

/-- A tick that steps the slots (51_ppu_rendering.md R316). -/
theorem ppuTick_sprites_step {s : State} (hon : s.ppu.renderingEnabled = true) (hvis : s.ppu.visible)
    (hc : s.ppu.cycle ≠ 255) :
    (ppuTick s).ppu.slots = s.ppu.slots.map stepSlot ∧ (ppuTick s).ppu.secOam = s.ppu.secOam ∧
    (ppuTick s).ppu.spr0Next = s.ppu.spr0Next ∧ (ppuTick s).ppu.spriteCount = s.ppu.spriteCount ∧
    (ppuTick s).ppu.spr0Line = s.ppu.spr0Line := by
  obtain ⟨hgate, hcycle⟩ := beforeSprites_gate s
  have hstep : spriteCycle s.fixed s.beforeSprites = spriteStep s.beforeSprites :=
    spriteCycle_step s.fixed (hgate.trans hon) (by rwa [hcycle])
  rw [ppuTick_visible hvis, ← State.beforeSprites, hstep, afterAdvance_frame, beforeSprites_frame, afterRender_frame]
  exact ⟨rfl, rfl, rfl, rfl, rfl⟩

/-- The tick that evaluates OAM and refills the slots (51_ppu_rendering.md R309, R312). -/
theorem ppuTick_sprites_fetch {s : State} (hon : s.ppu.renderingEnabled = true) (hvis : s.ppu.visible)
    (hc : s.ppu.cycle = 255) :
    let e := spriteEvaluate s.ppu
    let q := (ppuTick s).ppu
    q.secOam = e.secOam ∧ q.spriteCount = e.spriteCount ∧ q.spr0Next = e.spr0Next ∧ q.spr0Line = e.spr0Next ∧
      q.slots = (List.range 8).map fun i => if i < e.spriteCount then fetchSlot s.fixed e i else SpriteSlot.cleared := by
  intro e q
  obtain ⟨hgate, hcycle⟩ := beforeSprites_gate s
  have hscan := (sameForScan_beforeSprites s).spriteEvaluate
  have hbus : ∀ p : Ppu, (spriteEvaluate p).nt = p.nt ∧ (spriteEvaluate p).pal = p.pal := fun p => by
    rw [spriteEvaluate_frame]
    exact ⟨rfl, rfl⟩
  have hnt : (spriteEvaluate (spriteStep s.beforeSprites)).nt = e.nt := by
    rw [(hbus _).1, (hbus _).1, spriteStep, beforeSprites_frame, afterRender_frame]
  have hpal : (spriteEvaluate (spriteStep s.beforeSprites)).pal = e.pal := by
    rw [(hbus _).2, (hbus _).2, spriteStep, beforeSprites_frame, afterRender_frame]
  have hq : q = (spriteFetch s.fixed (spriteEvaluate (spriteStep s.beforeSprites))).afterAdvance := by
    rw [← spriteCycle_fetch s.fixed (hgate.trans hon) (hcycle.trans hc)]
    exact ppuTick_visible hvis
  rw [hq, afterAdvance_frame, spriteFetch]
  refine ⟨hscan.secOam, hscan.spriteCount, hscan.spr0Next, hscan.spr0Next, ?_⟩
  simp only [hscan.spriteCount, hscan.fetchSlot hnt hpal, e]

/-- Settles O35: the tick that steps, the tick that fetches, and the others. -/
theorem spriteSlotsFollowTheirTicks : Obligations.SpriteSlotsFollowTheirTicks := by
  intro s
  dsimp only
  refine ⟨fun ha hc => ?step, fun ha hc => ?fetch, fun he => ?held, fun ha hc => ?heldSlots⟩
  case step =>
    rw [(ppuTick_sprites_step ha.1 ha.2 hc).1]
    exact List.map_congr_left fun l _ => stepSlot_eq l
  case fetch => exact ppuTick_sprites_fetch ha.1 ha.2 hc
  case held =>
    by_cases ha : s.ppu.renderingEnabled = true ∧ s.ppu.visible
    · obtain ⟨-, hsecOam, hnext, hcount, hline⟩ := ppuTick_sprites_step ha.1 ha.2 fun h => he ⟨ha, h⟩
      exact ⟨hsecOam, hnext, fun _ => ⟨hcount, hline⟩⟩
    · obtain ⟨hsecOam, hnext, hslots⟩ := ppuTick_sprites_idle ha
      exact ⟨hsecOam, hnext, fun hc => (hslots hc).2⟩
  case heldSlots =>
    obtain ⟨-, -, hslots⟩ := ppuTick_sprites_idle ha
    exact (hslots hc).1
end Sys2Proof.Machine
end

section
/-! PROOF. Pixel composition and the sprite fetch (51_ppu_rendering.md R312 to R314, R318 to R322): the first opaque slot
by induction on the slots, the sprite's pattern address as a number. -/

namespace Sys2Proof.Machine

/-! The foreground -/

/-- A slot that shows an opaque pixel now (51_ppu_rendering.md R319). -/
abbrev SpriteSlot.isOpaque (q : SpriteSlot) : Prop := q.x = 0 ∧ (q.patHi.getLsbD 7 = true ∨ q.patLo.getLsbD 7 = true)

theorem twoBits_ne_zero (hi lo : Bool) : twoBits hi lo ≠ 0 ↔ hi = true ∨ lo = true := by
  cases hi <;> cases lo <;> simp [twoBits]

theorem opaque_iff (q : SpriteSlot) : q.x = 0 ∧ q.pixel ≠ 0 ↔ q.isOpaque := by
  rw [SpriteSlot.pixel, twoBits_ne_zero]

/-- The low two bits of a byte as a number. -/
theorem and_three (b : Byte) : (b &&& 3).toNat = b.toNat % 4 := by
  rw [BitVec.toNat_and]
  exact Nat.and_two_pow_sub_one_eq_mod b.toNat 2

/-- What an opaque slot contributes (51_ppu_rendering.md R319). -/
def SpriteSlot.foreground (q : SpriteSlot) (i : Nat) : Foreground :=
  { pixel := { pal := (q.attr &&& 3).toNat + 4, px := q.pixel }, front := !q.attr.getLsbD 5, slot := i }

theorem firstOpaque_opaque {q : SpriteSlot} (h : q.isOpaque) (i : Nat) (rest : List SpriteSlot) :
    firstOpaque i (q :: rest) = some (q.foreground i) := by
  rw [firstOpaque, if_pos ((opaque_iff q).mpr h)]
  rfl

theorem firstOpaque_clear {q : SpriteSlot} (h : ¬q.isOpaque) (i : Nat) (rest : List SpriteSlot) :
    firstOpaque i (q :: rest) = firstOpaque (i + 1) rest := by
  rw [firstOpaque, if_neg (mt (opaque_iff q).mp h)]

/-- The foreground comes from an opaque slot before which none is opaque. -/
theorem firstOpaque_some {i : Nat} {l : List SpriteSlot} {f : Foreground} (h : firstOpaque i l = some f) :
    ∃ j, ∃ q : SpriteSlot, l[j]? = some q ∧ q.isOpaque ∧ f = q.foreground (i + j) ∧
      ∀ k < j, ∀ q' : SpriteSlot, l[k]? = some q' → ¬q'.isOpaque := by
  induction l generalizing i with
  | nil => simp [firstOpaque] at h
  | cons q rest ih =>
    by_cases hq : q.isOpaque
    · rw [firstOpaque_opaque hq] at h
      exact ⟨0, q, rfl, hq, (Option.some.inj h).symm, fun k hk => absurd hk (Nat.not_lt_zero k)⟩
    · rw [firstOpaque_clear hq] at h
      obtain ⟨j, r, hr, hopaque, hf, hbefore⟩ := ih h
      refine ⟨j + 1, r, hr, hopaque, by rw [hf, Nat.add_assoc, Nat.add_comm 1], fun k hk q' hq' => ?_⟩
      cases k with
      | zero => exact Option.some.inj hq' ▸ hq
      | succ k => exact hbefore k (Nat.lt_of_succ_lt_succ hk) q' hq'

theorem firstOpaque_eq_none_iff (i : Nat) (l : List SpriteSlot) :
    firstOpaque i l = none ↔ ∀ q ∈ l, ¬q.isOpaque := by
  induction l generalizing i with
  | nil => simp [firstOpaque]
  | cons q rest ih =>
    by_cases hq : q.isOpaque
    · rw [firstOpaque_opaque hq]
      exact iff_of_false (Option.some_ne_none _) fun h => h q List.mem_cons_self hq
    · rw [firstOpaque_clear hq, ih, List.forall_mem_cons, and_iff_right hq]

/-- Settles O32: the slots are searched in order. -/
theorem foregroundIsTheFirstOpaqueSlot : Obligations.ForegroundIsTheFirstOpaqueSlot := by
  intro p
  dsimp only
  refine ⟨fun f hf => ?_, ?_⟩
  · obtain ⟨hon, hfirst⟩ : p.mask.getLsbD 4 = true ∧ firstOpaque 0 p.slots = some f := by
      rw [foregroundPixel] at hf
      split at hf
      next hon => exact ⟨hon, hf⟩
      next => cases hf
    obtain ⟨j, q, hq, hopaque, rfl, hbefore⟩ := firstOpaque_some hfirst
    rw [Nat.zero_add]
    exact ⟨hon, q, hq, hopaque, rfl, congrArg (· + 4) (and_three q.attr), rfl, hbefore⟩
  · rw [foregroundPixel]
    cases p.mask.getLsbD 4 with
    | false => exact iff_of_true rfl (.inl rfl)
    | true => exact (firstOpaque_eq_none_iff 0 p.slots).trans (or_iff_right (by decide)).symm

/-! The multiplexer -/

theorem paletteAddr_eq (q : Pixel) : paletteAddr q = BitVec.ofNat 16 (0x3F00 + 4 * q.pal + q.px) := by
  rw [paletteAddr, Nat.add_assoc, BitVec.ofNat_add 0x3F00]
  rfl

theorem backgroundPixel_eq (p : Ppu) :
    backgroundPixel p = if p.mask.getLsbD 3 then
      { pal := twoBits (p.bgAttrHi.getLsbD (15 - p.x.toNat)) (p.bgAttrLo.getLsbD (15 - p.x.toNat)),
        px := twoBits (p.bgPatHi.getLsbD (15 - p.x.toNat)) (p.bgPatLo.getLsbD (15 - p.x.toNat)) }
      else { pal := 0, px := 0 } := rfl

/-- A hit needs a foreground pixel of slot 0 on a line that shows entry 0 (51_ppu_rendering.md R320). -/
theorem spriteZeroHit_iff (fixed : Fixed) (p : Ppu) :
    spriteZeroHit fixed p = true ↔ ∃ f, foregroundPixel p = some f ∧ f.slot = 0 ∧ p.spr0Line = true ∧
      p.cycle ≠ fixed.params.sprite0ExcludedCycle := by
  unfold spriteZeroHit
  cases foregroundPixel p with
  | none => simp
  | some f => simp [and_assoc]

/-- Settles O33. -/
theorem multiplexerAndSpriteZeroHit : Obligations.MultiplexerAndSpriteZeroHit := by
  refine ⟨fun p => ⟨fun hoff => ?_, fun hon => ?_⟩, fun bg f => ⟨fun h => ?_, fun h => ?_, fun h => ?_, fun h => ?_⟩,
    fun fixed p => congrArg (ppuRead fixed p) (paletteAddr_eq _), spriteZeroHit_iff⟩
  · rw [backgroundPixel_eq, hoff]
    rfl
  · rw [backgroundPixel_eq, hon]
    rfl
  · exact if_pos h
  · exact if_neg h
  · exact if_pos (.inl h)
  · simp only [muxPixel, h, false_or]

/-! The sprite fetch -/

/-- A row number of a sprite as the model's 16-bit word. -/
theorem ofInt_row (flip : Bool) {d last : Nat} (hd : d ≤ last) :
    BitVec.ofInt 16 (if flip then (last : Int) - d else d) = BitVec.ofNat 16 (if flip then last - d else d) := by
  rw [← BitVec.ofInt_natCast]
  cases flip
  · rfl
  · exact congrArg (BitVec.ofInt 16) (Int.ofNat_sub hd).symm

/-- The tile byte without its table bit. -/
theorem and_fe (tile : Byte) : (tile &&& 0xFE).toNat = tile.toNat / 2 * 2 := by
  have hbits : tile &&& 0xFE = tile.extractLsb' 1 7 ++ 0#1 := by
    apply BitVec.eq_of_getLsbD_eq
    intro i hi
    rw [BitVec.getLsbD_and, BitVec.getLsbD_append]
    interval_cases i <;> simp
  have htile := tile.isLt
  rw [hbits, toNat_append_eq_add, BitVec.extractLsb'_toNat, Nat.shiftRight_eq_div_pow]
  simp only [BitVec.toNat_ofNat]
  omega

/-- The pattern address of row `d` of a sprite, as a number (51_ppu_rendering.md R313). -/
theorem spritePatternAddr_eq (ctrl tile attr : Byte) {d : Nat} (hd : d < if ctrl.getLsbD 5 then 16 else 8) :
    let row := if attr.getLsbD 7 then (if ctrl.getLsbD 5 then 16 else 8) - 1 - d else d
    spritePatternAddr ctrl tile attr d = BitVec.ofNat 16
      (if ctrl.getLsbD 5 then 0x1000 * (tile.toNat % 2) + 16 * (tile.toNat / 2 * 2 + row / 8) + row % 8
        else 0x1000 * (ctrl.getLsbD 3).toNat + 16 * tile.toNat + row) := by
  have htile := tile.isLt
  apply BitVec.eq_of_toNat_eq
  rw [spritePatternAddr]
  cases hsize : ctrl.getLsbD 5 with
  | false =>
    rw [hsize, if_neg (by decide)] at hd
    have hrow : BitVec.ofInt 16 (if attr.getLsbD 7 then 7 - (d : Int) else d) =
        BitVec.ofNat 16 (if attr.getLsbD 7 then 7 - d else d) := ofInt_row _ (last := 7) (by omega)
    have hlt : (if attr.getLsbD 7 then 7 - d else d) < 8 := by split <;> omega
    simp only [Bool.false_eq_true, if_false, hrow]
    generalize (if attr.getLsbD 7 then 7 - d else d) = row at hlt
    have hword : (BitVec.ofNat 16 row).toNat = row := Nat.mod_eq_of_lt (by omega)
    have hidx : (tile.setWidth 16).toNat = tile.toNat := BitVec.toNat_setWidth_of_le (by decide)
    have htable : (ctrl.getLsbD 3).toNat ≤ 1 := Bool.toNat_le _
    rw [patternAddr_toNat _ (by omega) (by omega), hidx, hword, BitVec.toNat_ofNat]
    omega
  | true =>
    rw [hsize, if_pos rfl] at hd
    have hrow : BitVec.ofInt 16 (if attr.getLsbD 7 then 15 - (d : Int) else d) =
        BitVec.ofNat 16 (if attr.getLsbD 7 then 15 - d else d) := ofInt_row _ (last := 15) (by omega)
    have hlt : (if attr.getLsbD 7 then 15 - d else d) < 16 := by split <;> omega
    simp only [if_true, hrow]
    generalize (if attr.getLsbD 7 then 15 - d else d) = row at hlt
    have hword : (BitVec.ofNat 16 row).toNat = row := Nat.mod_eq_of_lt (by omega)
    have hidx : ((tile &&& 0xFE).setWidth 16 + if 8 ≤ (BitVec.ofNat 16 row).toNat then 1 else 0 : Addr).toNat =
        tile.toNat / 2 * 2 + row / 8 := by
      rw [hword, BitVec.toNat_add, BitVec.toNat_setWidth, and_fe]
      split <;> bv_omega
    have hlow : (BitVec.ofNat 16 row &&& 7).toNat = row % 8 := by
      rw [BitVec.toNat_and, hword]
      exact Nat.and_two_pow_sub_one_eq_mod row 3
    have htable : (tile.getLsbD 0).toNat = tile.toNat % 2 := by
      rw [BitVec.getLsbD, Nat.toNat_testBit, Nat.pow_zero, Nat.div_one]
    rw [patternAddr_toNat _ (by omega) (by omega), hidx, hlow, htable, BitVec.toNat_ofNat]
    omega

theorem getLsbD_reverse8 (b : Byte) {k : Nat} (hk : k < 8) : (reverse8 b).getLsbD k = b.getLsbD (7 - k) := by
  rw [reverse8, BitVec.getLsbD_reverse, BitVec.getMsbD_eq_getLsbD, decide_eq_true hk, Bool.true_and]

/-- Settles O36: the fetch of a slot at the address of its row. -/
theorem spriteFetchBuildsTheSlot : Obligations.SpriteFetchBuildsTheSlot := by
  intro fixed p i
  dsimp only
  intro d hd hline
  have hrow : p.scanline - ((Memory.read p.secOam (4 * i + 0)).toNat : Int) = (d : Int) := by omega
  have haddr := spritePatternAddr_eq p.ctrl (Memory.read p.secOam (4 * i + 1)) (Memory.read p.secOam (4 * i + 2)) hd
  dsimp only at haddr
  rw [BitVec.ofNat_add _ 8, ← haddr, fetchSlot]
  dsimp only
  rw [hrow]
  refine ⟨rfl, rfl, fun k hk => ?_⟩
  cases (Memory.read p.secOam (4 * i + 2)).getLsbD 6 with
  | false => exact ⟨rfl, rfl⟩
  | true => exact ⟨getLsbD_reverse8 _ hk, getLsbD_reverse8 _ hk⟩

end Sys2Proof.Machine
end

section
/-! PROOF. The PPU bus, the PPU registers that reach it, and the I/O range of the CPU bus (20_memory.md R65 to R67, R73 to
R79, 50_ppu_registers.md R250 to R269): each access by the range of its address. -/

namespace Sys2Proof.Machine

/-! The PPU bus, by ranges -/

/-- A PPU bus address acts modulo 16384 (20_memory.md R73). -/
theorem ppuFold_eq (a : Addr) : ppuFold a = BitVec.ofNat 16 (a.toNat % 16384) := by
  have hmod : (a &&& 0x3FFF).toNat = a.toNat % 16384 := by
    rw [BitVec.toNat_and]
    exact Nat.and_two_pow_sub_one_eq_mod a.toNat 14
  rw [ppuFold, ← hmod, BitVec.ofNat_toNat, BitVec.setWidth_eq]

theorem ppuFold_of_le {a : Addr} (h : a ≤ 0x3FFF) : ppuFold a = a := by
  rw [ppuFold_eq, Nat.mod_eq_of_lt (by bv_omega), BitVec.ofNat_toNat, BitVec.setWidth_eq]

theorem ppuFold_ppuFold (a : Addr) : ppuFold (ppuFold a) = ppuFold a :=
  ppuFold_of_le (by rw [ppuFold_eq]; bv_omega)

theorem ppuRead_ppuFold (fixed : Fixed) (p : Ppu) (a : Addr) : ppuRead fixed p (ppuFold a) = ppuRead fixed p a := by
  rw [ppuRead, ppuFold_ppuFold]
  rfl

theorem ppuWrite_ppuFold (fixed : Fixed) (a : Addr) (v : Byte) (p : Ppu) :
    ppuWrite fixed (ppuFold a) v p = ppuWrite fixed a v p := by
  rw [ppuWrite, ppuFold_ppuFold]
  rfl

section Ranges
variable (fixed : Fixed) (p : Ppu) {a : Addr}

theorem ppuRead_tiles (h : a ≤ 0x1FFF) : ppuRead fixed p a = Memory.read fixed.tiles a.toNat := by
  rw [ppuRead, ppuFold_of_le (by bv_omega)]
  exact if_pos h

theorem ppuWrite_tiles (h : a ≤ 0x1FFF) (v : Byte) : ppuWrite fixed a v p = p := by
  rw [ppuWrite, ppuFold_of_le (by bv_omega)]
  exact if_pos h

theorem ppuRead_nametable (h : 0x2000 ≤ a) (h' : a ≤ 0x3EFF) :
    ppuRead fixed p a = Memory.read p.nt (ntKey fixed.mirroring a) := by
  rw [ppuRead, ppuFold_of_le (by bv_omega)]
  exact (if_neg (by bv_omega)).trans (if_pos h')

theorem ppuWrite_nametable (h : 0x2000 ≤ a) (h' : a ≤ 0x3EFF) (v : Byte) :
    ppuWrite fixed a v p = { p with nt := Memory.write p.nt (ntKey fixed.mirroring a) v } := by
  rw [ppuWrite, ppuFold_of_le (by bv_omega)]
  exact (if_neg (by bv_omega)).trans (if_pos h')

theorem ppuRead_palette (h : 0x3F00 ≤ a) (h' : a ≤ 0x3FFF) : ppuRead fixed p a = Memory.read p.pal (palIndex a) := by
  rw [ppuRead, ppuFold_of_le h']
  exact (if_neg (by bv_omega)).trans (if_neg (by bv_omega))

theorem ppuWrite_palette (h : 0x3F00 ≤ a) (h' : a ≤ 0x3FFF) (v : Byte) :
    ppuWrite fixed a v p = { p with pal := Memory.write p.pal (palIndex a) v } := by
  rw [ppuWrite, ppuFold_of_le h']
  exact (if_neg (by bv_omega)).trans (if_neg (by bv_omega))

end Ranges

/-! Palette and nametables -/

/-- Settles O18: the cell of an address is its palette key. -/
theorem paletteIsAliased : Obligations.PaletteIsAliased := by
  intro fixed p a v ha ha' q cell
  have hq : q = { p with pal := Memory.write p.pal (palIndex a) v } := ppuWrite_palette fixed p ha ha' v
  have hcell : ∀ c, cell c = palIndex c := fun c => (palIndex_eq c).symm
  refine ⟨by rw [hq], fun hwf b hb hb' => ?_⟩
  rw [hq, ppuRead_palette fixed _ hb hb', ppuRead_palette fixed p hb hb', Memory.read_write hwf, hcell, hcell]
  exact if_congr eq_comm rfl rfl

/-- The nametable key as a number (20_memory.md R76). -/
theorem ntKey_eq (mirroring : Mirroring) (a : Addr) :
    ntKey mirroring a =
      (if mirroring = .horizontal then a.toNat / 1024 % 4 / 2 else a.toNat / 1024 % 4 % 2) * 1024 + a.toNat % 1024 := by
  have hlow : (a &&& 0x03FF).toNat = a.toNat % 1024 := by
    rw [BitVec.toNat_and]
    exact Nat.and_two_pow_sub_one_eq_mod a.toNat 10
  have htable : logicalNametable a = a.toNat / 1024 % 4 := by
    rw [logicalNametable, BitVec.toNat_and, show (0x0FFF : Addr).toNat = 2 ^ 12 - 1 from rfl,
      Nat.and_two_pow_sub_one_eq_mod]
    omega
  cases mirroring <;> (rw [ntKey, hlow, ← htable]; rfl)

/-- Two addresses share a nametable cell exactly when bank and offset agree. -/
theorem ntKey_eq_iff (mirroring : Mirroring) (a b : Addr) :
    let bank := fun c : Addr => if mirroring = .horizontal then c.toNat / 1024 % 4 / 2 else c.toNat / 1024 % 4 % 2
    ntKey mirroring a = ntKey mirroring b ↔ bank a = bank b ∧ a.toNat % 1024 = b.toNat % 1024 := by
  dsimp only
  rw [ntKey_eq, ntKey_eq]
  cases mirroring <;> simp only [reduceCtorEq, if_true, if_false] <;> omega

/-- Settles O19: the three ranges of the PPU bus. -/
theorem nametablesAreMirrored : Obligations.NametablesAreMirrored := by
  intro fixed p a v
  dsimp only
  rw [← ppuFold_eq]
  refine ⟨⟨(ppuRead_ppuFold fixed p a).symm, (ppuWrite_ppuFold fixed a v p).symm⟩,
    fun h => ⟨ppuRead_tiles fixed p h, ppuWrite_tiles fixed p h v⟩, fun ha ha' => ?_⟩
  rw [ppuWrite_nametable fixed p ha ha']
  refine ⟨rfl, fun hwf b hb hb' => ?_⟩
  rw [ppuRead_nametable fixed _ hb hb', ppuRead_nametable fixed p hb hb', Memory.read_write hwf]
  exact if_congr (eq_comm.trans (ntKey_eq_iff fixed.mirroring a b)) rfl rfl

/-! The PPU registers -/

theorem ppuRegRead_data (fixed : Fixed) (p : Ppu) : ppuRegRead fixed 7 p = dataRead fixed p := rfl

theorem ppuRegWrite_data (fixed : Fixed) (d : Byte) (p : Ppu) : ppuRegWrite fixed 7 d p = dataWrite fixed d p := rfl

/-- The address that the data register uses. -/
theorem ppuFold_vramAddr (v : BitVec 15) : ppuFold (vramAddr v) = BitVec.ofNat 16 (v.toNat % 16384) := by
  rw [ppuFold_eq, vramAddr, BitVec.toNat_setWidth_of_le (by decide)]

/-- `v` after an access of the data register (50_ppu_registers.md R267). -/
theorem add_vramIncrement (p : Ppu) :
    p.v + p.vramIncrement = BitVec.ofNat 15 (p.v.toNat + if p.ctrl.getLsbD 2 then 32 else 1) := by
  rw [Ppu.vramIncrement]
  split <;> bv_omega

/-- A read of the data register, in numbers (50_ppu_registers.md R268). -/
theorem dataRead_eq (fixed : Fixed) (p : Ppu) :
    let here := ppuRead fixed p (BitVec.ofNat 16 (p.v.toNat % 16384))
    dataRead fixed p = (if p.v.toNat % 16384 < 0x3F00 then p.dataBuffer else here,
      { p with
        dataBuffer := here, v := BitVec.ofNat 15 (p.v.toNat + if p.ctrl.getLsbD 2 then 32 else 1) }) := by
  have hbelow : BitVec.ofNat 16 (p.v.toNat % 16384) < (0x3F00 : Addr) ↔ p.v.toNat % 16384 < 0x3F00 := by bv_omega
  simp only [dataRead, ppuFold_vramAddr, add_vramIncrement, hbelow]

/-- Settles O22. -/
theorem dataRegisterIsDelayed : Obligations.DataRegisterIsDelayed := by
  intro fixed p d inc a here first second
  have hfirst : first = _ := dataRead_eq fixed p
  refine ⟨congrArg Prod.snd hfirst, fun h => ?below, fun h => ?palette, fun h => ?second, ?write⟩
  case below => exact (congrArg Prod.fst hfirst).trans (if_pos h)
  case palette => exact (congrArg Prod.fst hfirst).trans (if_neg (Nat.not_lt.mpr h))
  case second =>
    have hsecond : second = _ := dataRead_eq fixed first.2
    have hstate : first.2 = _ := congrArg Prod.snd hfirst
    have hv : first.2.v.toNat = (p.v.toNat + inc) % 32768 := congrArg (fun q : Ppu => q.v.toNat) hstate
    rw [hsecond]
    refine (if_pos ?_).trans (congrArg Ppu.dataBuffer hstate)
    rw [hv]
    omega
  case write =>
    rw [ppuRegWrite_data, dataWrite, ppuFold_vramAddr, add_vramIncrement]

/-- Settles O23. -/
theorem oamDataRegister : Obligations.OamDataRegister := by
  intro fixed p d hwf
  refine ⟨rfl, rfl, ?_⟩
  have hwrite : ppuRegWrite fixed 4 d p = oamDataWrite d p := rfl
  have hnext : p.oamAddr + 1 = BitVec.ofNat 8 (p.oamAddr.toNat + 1) := by bv_omega
  dsimp only
  rw [hwrite, oamDataWrite, hnext]
  exact ⟨rfl, fun k => Memory.read_write hwf _ k d⟩

/-- Settles O24. -/
theorem maskWriteAndDroppedAccesses : Obligations.MaskWriteAndDroppedAccesses := by
  intro fixed p d
  refine ⟨rfl, rfl, ?_⟩
  simp [ppuRegRead]

/-! The CPU bus above RAM -/

/-- Settles O20: register 2 is the status register. -/
theorem statusReadClearsVblankAndToggle : Obligations.StatusReadClearsVblankAndToggle := by
  intro a s h h' hmod
  rw [memRead_ppu h h', hmod]
  refine ⟨rfl, s.ppu.status &&& 0x7F, rfl, ?_, fun k hk => ?_⟩
  · simp
  · rw [BitVec.getLsbD_and]
    interval_cases k <;> simp

/-- The I/O addresses that a read answers with 0 (20_memory.md R65). -/
theorem cpuTarget_io {a : Addr} (h : 0x4000 ≤ a) (h' : a ≤ 0x401F) (h6 : a ≠ 0x4016) (h7 : a ≠ 0x4017) :
    cpuTarget a = .audio ∨ cpuTarget a = .oamDma ∨ cpuTarget a = .nothing := by
  unfold cpuTarget
  rw [if_neg (by bv_omega), if_neg (by bv_omega)]
  by_cases h4 : a = 0x4014
  · rw [if_pos h4]
    exact .inr (.inl rfl)
  · rw [if_neg h4, if_neg h6, if_neg h7]
    by_cases h5 : a ≤ 0x4015
    · rw [if_pos h5]
      exact .inl rfl
    · rw [if_neg h5, if_pos h']
      exact .inr (.inr rfl)

theorem memRead_io {a : Addr} (h : 0x4000 ≤ a) (h' : a ≤ 0x401F) (h6 : a ≠ 0x4016) (h7 : a ≠ 0x4017) (s : State) :
    memRead a s = (0, s) := by
  rcases cpuTarget_io h h' h6 h7 with ht | ht | ht <;> rw [memRead, ht]

/-- Settles O17: the I/O range by its targets. -/
theorem ioRangeDecodes : Obligations.IoRangeDecodes := by
  intro a s
  refine ⟨fun h h' h6 h7 => memRead_io h h' h6 h7 s, fun port hport => ?_, fun h => memRead_cartridge h s,
    fun v => memWrite_eq_none_iff a v s⟩
  rcases hport with ⟨rfl, rfl⟩ | ⟨rfl, rfl⟩ <;> rfl

end Sys2Proof.Machine
end

section
/-! PROOF. The boot sequence (70_reset_and_hazards.md R400 to R402): the state after reset as one record, and the
invariant it meets. -/

namespace Sys2Proof.Machine

/-- The state after `Enter(RESET)` (70_reset_and_hazards.md R400): both bytes of the vector are the cartridge's. -/
theorem enterReset_eq (s : State) :
    enterReset s = { s with
      cpu :=
        { a := 0, x := 0, y := 0, sp := 0xFD, p := 0x24, cyc := s.fixed.params.resetCycles
          pc := mkAddr (readProgram s 0xFFFD) (readProgram s 0xFFFC) }
      fatal := none } := by
  have h : (0x4020 : Addr) ≤ resetVector := by decide
  have h' : (0x4020 : Addr) ≤ resetVector + 1 := by decide
  simp only [enterReset, read16_cartridge h h']
  rfl

/-- A launch boots exactly with the mirroring modes that the model knows (70_reset_and_hazards.md R401). -/
theorem boot_eq_next {l : Launch} (h : l.mirroring ≠ .other) :
    ∃ m : Mirroring, (l.mirroring = .horizontal ↔ m = .horizontal) ∧ boot l = .next (enterReset (l.place m)) := by
  cases hm : l.mirroring with
  | other => exact absurd hm h
  | horizontal => exact ⟨.horizontal, by simp, by rw [boot, hm]⟩
  | vertical => exact ⟨.vertical, by simp, by rw [boot, hm]⟩

theorem boot_other {l : Launch} (h : l.mirroring = .other) : boot l = .refused .mirroringOther := by
  rw [boot, h]

/-- Settles O9. -/
theorem bootLeavesTheSpecifiedState : Obligations.BootLeavesTheSpecifiedState := by
  refine ⟨by decide, fun l => ⟨boot_other, fun h => ?_⟩⟩
  obtain ⟨m, hm, hboot⟩ := boot_eq_next h
  have hpc : ∀ hi lo : Byte, (mkAddr hi lo).toNat = lo.toNat + 256 * hi.toNat := fun hi lo => by
    rw [mkAddr_toNat, Nat.add_comm, Nat.mul_comm]
  rw [hboot, enterReset_eq]
  exact ⟨_, rfl, rfl, rfl, rfl, rfl, rfl, rfl, rfl, hpc _ _, rfl, rfl, rfl, rfl, hm, rfl, rfl, rfl, rfl, rfl, rfl, rfl, rfl,
    rfl, rfl, rfl, rfl, rfl, rfl, rfl, rfl, rfl, rfl, rfl, rfl, rfl, rfl, rfl, rfl, rfl, rfl, fun _ => rfl, rfl, rfl, rfl,
    rfl⟩

/-- A booted machine meets the invariant: the registers by their values, the memories by the launch. -/
theorem inv_enterReset {l : Launch} (hl : l.WellFormed) (m : Mirroring) : Inv (enterReset (l.place m)) := by
  rw [enterReset_eq]
  exact {
    statusBit5 := show getFlag .u 0x24 = true by decide
    statusBit4 := show getFlag .b 0x24 = false by decide
    ram := hl.ram
    oam := hl.oam
    secOam := rfl
    nt := hl.nt
    pal := hl.pal
    program := hl.program
    tiles := hl.tiles
    slots := rfl
    spriteCount := Nat.zero_le 8
    scanline := show -1 ≤ (0 : Int) ∧ (0 : Int) ≤ 260 by decide
    cycle := Nat.zero_le 340
    ppuStatus := show (0 : Byte) &&& 0x1F = 0 by decide
    dmaOamAddr := fun _ => rfl
    dmaIdle := fun _ => ⟨rfl, rfl⟩
    undefCycles := hl.undefCycles
    cyc := fun _ => hl.resetCycles }

theorem wellFormed_empty : Launch.empty.WellFormed where
  program := rfl
  tiles := rfl
  ram := rfl
  oam := rfl
  nt := rfl
  pal := rfl
  resetCycles := by decide
  undefCycles := by decide

/-- The state after reset is that of a machine booted with nothing listed anywhere. -/
theorem reset_eq_enterReset : State.reset = enterReset (Launch.empty.place .horizontal) := by
  rw [enterReset_eq]
  rfl

/-- Settles O10: both states are booted ones. -/
theorem bootMeetsTheInvariant : Obligations.BootMeetsTheInvariant := by
  refine ⟨reset_eq_enterReset ▸ inv_enterReset wellFormed_empty _, fun l s hl hboot => ?_⟩
  by_cases h : l.mirroring = .other
  · rw [boot_other h] at hboot
    cases hboot
  · obtain ⟨m, -, hnext⟩ := boot_eq_next h
    rw [hnext] at hboot
    cases hboot
    exact inv_enterReset hl m

end Sys2Proof.Machine
end

section
/-! PROOF. The stack and what is built on it (40_addressing.md R136, R137, 42_transfer_stack.md, 47_jump_branch.md,
49_system.md, 60_exceptions.md): the bytes of RAM after a push, a pull as the byte above `SP`, then each instruction. -/

namespace Sys2Proof.Machine

/-! Bytes of RAM -/

/-- A byte of RAM or of the cartridge is read whatever the CPU holds. -/
theorem byteAt_setCpu (c : Cpu) (s : State) (a : Addr) : byteAt (s.setCpu c) a = byteAt s a := by
  rw [byteAt, memRead_setCpu]

/-- A byte of the cartridge does not depend on anything else. -/
theorem byteAt_cartridge {s t : State} (h : t.fixed = s.fixed) {b : Addr} (hb : 0x4020 ≤ b) : byteAt t b = byteAt s b := by
  rw [byteAt, byteAt, memRead_cartridge hb, memRead_cartridge hb, readProgram, readProgram, h]

theorem readProgram_eq_byteAt (s : State) {a : Addr} (h : 0x4020 ≤ a) : readProgram s a = byteAt s a := by
  rw [byteAt, memRead_cartridge h]

theorem stackAddr_toNat (sp : Byte) : (stackAddr sp).toNat = 256 + sp.toNat := by
  rw [stackAddr, mkAddr_toNat]
  rfl

/-! Pushes -/

theorem wf_push {s : State} (hs : Memory.wf 0 2048 s.ram) (v : Byte) : Memory.wf 0 2048 (push v s).ram :=
  Memory.wf_write (Nat.zero_le _) (ramIndex_lt _) hs v

/-- RAM after a push: the cell that `SP` named, with its mirrors, holds the byte (40_addressing.md R136). -/
theorem ramAfterWrite_push {s : State} (hs : Memory.wf 0 2048 s.ram) (v : Byte) :
    RamAfterWrite (stackAddr s.cpu.sp) v s (push v s) := fun b hb =>
  (byteAt_setCpu _ _ b).trans (ramAfterWrite_setRam (stackAddr s.cpu.sp) v hs b hb)

theorem byteAt_push {s : State} (hs : Memory.wf 0 2048 s.ram) (v : Byte) {b : Addr} (hb : b ≤ 0x1FFF) :
    byteAt (push v s) b = if b &&& 0x07FF = stackAddr s.cpu.sp then v else byteAt s b := by
  rw [ramAfterWrite_push hs v b hb, stackAddr_mask]

/-- RAM after a 16-bit push, high byte first (20_memory.md R82). -/
theorem byteAt_pushAddr {s : State} (hs : Memory.wf 0 2048 s.ram) (w : Addr) {b : Addr} (hb : b ≤ 0x1FFF) :
    byteAt (pushAddr w s) b =
      if b &&& 0x07FF = stackAddr (s.cpu.sp - 1) then loByte w
      else if b &&& 0x07FF = stackAddr s.cpu.sp then hiByte w else byteAt s b := by
  rw [pushAddr, byteAt_push (wf_push hs _) _ hb, byteAt_push hs _ hb]
  rfl

/-- RAM after an interrupt was taken through a cartridge vector (49_system.md R235, 60_exceptions.md R377). -/
theorem byteAt_enterInterrupt {s : State} (hs : Memory.wf 0 2048 s.ram) {vector : Addr} (h : 0x4020 ≤ vector)
    (h' : 0x4020 ≤ vector + 1) (ret : Addr) (status : Byte) {b : Addr} (hb : b ≤ 0x1FFF) :
    byteAt (enterInterrupt vector ret status s) b =
      if b &&& 0x07FF = stackAddr (s.cpu.sp - 2) then status
      else if b &&& 0x07FF = stackAddr (s.cpu.sp - 1) then loByte ret
      else if b &&& 0x07FF = stackAddr s.cpu.sp then hiByte ret else byteAt s b := by
  have hsp : s.cpu.sp - 2 = s.cpu.sp - 1 - 1 := by bv_omega
  rw [enterInterrupt_eq h h', State.mapCpu, byteAt_setCpu, byteAt_push (wf_push (wf_push hs _) _) _ hb, hsp]
  exact if_congr Iff.rfl rfl (byteAt_pushAddr hs ret hb)

/-! Pulls -/

/-- A pull answers the byte above `SP` (40_addressing.md R137). -/
theorem pull_eq (s : State) :
    pull s = (byteAt s (stackAddr (s.cpu.sp + 1)), s.setCpu (s.cpu.setSp (s.cpu.sp + 1))) := by
  rw [byteAt, ← pull_eq_memRead]
  rfl

/-- A 16-bit pull, low byte first (47_jump_branch.md R208). -/
theorem pullAddr_eq (s : State) :
    pullAddr s = (mkAddr (byteAt s (stackAddr (s.cpu.sp + 2))) (byteAt s (stackAddr (s.cpu.sp + 1))),
      s.setCpu (s.cpu.setSp (s.cpu.sp + 2))) := by
  have hsp : s.cpu.sp + 2 = s.cpu.sp + 1 + 1 := by bv_omega
  rw [pullAddr, pull_eq, pull_eq, byteAt_setCpu, hsp]
  rfl

/-- The return of RTI in one equation (49_system.md R237): only the CPU changes. -/
theorem returnFromInterrupt_eq (s : State) :
    returnFromInterrupt s = s.setCpu { s.cpu with
      p := pulledStatus (byteAt s (stackAddr (s.cpu.sp + 1)))
      sp := s.cpu.sp + 3
      pc := mkAddr (byteAt s (stackAddr (s.cpu.sp + 3))) (byteAt s (stackAddr (s.cpu.sp + 2))) } := by
  have h2 : s.cpu.sp + 2 = s.cpu.sp + 1 + 1 := by bv_omega
  have h3 : s.cpu.sp + 3 = s.cpu.sp + 1 + 2 := by bv_omega
  rw [returnFromInterrupt, pull_eq, pullAddr_eq, h2, h3]
  dsimp only [State.mapCpu]
  rw [byteAt_setCpu, byteAt_setCpu, byteAt_setCpu, byteAt_setCpu]
  rfl

/-! The instructions -/

/-- The CPU after a pull. -/
abbrev Cpu.pulled (c : Cpu) : Cpu := c.setSp (c.sp + 1)

theorem performPla_eq (base : Nat) (s : State) :
    let v := byteAt s (stackAddr (s.cpu.sp + 1))
    performPla base s = .next ((s.setCpu ((s.cpu.pulled.setA v).setZN v)).charge base) := by
  rw [performPla, pull_eq]
  rfl

theorem exec_plp (s : State) :
    exec .plp s = .next (s.setCpu ((s.cpu.pulled.setP
      (pulledStatus (byteAt s (stackAddr (s.cpu.sp + 1))))).setCyc 4)) := by
  have hexec : exec .plp s = performPlp 4 s := rfl
  rw [hexec, performPlp, pull_eq]
  rfl

/-- Settles O44. -/
theorem stackInstructionsUseTheStackCell : Obligations.StackInstructionsUseTheStackCell := by
  refine ⟨fun s hs => ⟨stackAddr_toNat _, ?pha, ?php⟩, fun s => ⟨?pla, ?plp⟩⟩
  case pha =>
    refine ⟨(push s.cpu.a s).charge 3, rfl, fun b hb => ?_, fun b hb => byteAt_cartridge (by rfl) hb,
      ⟨rfl, rfl, rfl, rfl, rfl, rfl, rfl⟩, rfl⟩
    exact (byteAt_setCpu _ _ b).trans (ramAfterWrite_push hs _ b hb)
  case php =>
    refine ⟨(push (pushedStatus s.cpu.p) s).charge 3, pushedStatus s.cpu.p, rfl, fun b hb => ?_,
      fun f => getFlag_pushedStatus f s.cpu.p, fun b hb => byteAt_cartridge (by rfl) hb,
      ⟨rfl, rfl, rfl, rfl, rfl, rfl, rfl⟩, rfl⟩
    exact (byteAt_setCpu _ _ b).trans (ramAfterWrite_push hs _ b hb)
  case pla =>
    exact ⟨_, performPla_eq 4 s, ⟨⟨⟨rfl, rfl, rfl, rfl, rfl, rfl, rfl⟩, rfl⟩, rfl, rfl, rfl, rfl, rfl, rfl⟩,
      znOf_setZN _ (s.cpu.pulled.setA _), sameFlagsBut_setZN _ (s.cpu.pulled.setA _)⟩
  case plp =>
    exact ⟨_, exec_plp s, ⟨⟨⟨rfl, rfl, rfl, rfl, rfl, rfl, rfl⟩, rfl⟩, rfl, rfl, rfl, rfl, rfl, rfl⟩,
      fun f => getFlag_pulledStatus f _⟩

theorem exec_rts (s : State) :
    exec .rts s = .next (s.setCpu { s.cpu with
      pc := mkAddr (byteAt s (stackAddr (s.cpu.sp + 2))) (byteAt s (stackAddr (s.cpu.sp + 1))) + 1
      sp := s.cpu.sp + 2
      cyc := 6 }) := by
  have hexec : exec .rts s = performRts 6 s := rfl
  rw [hexec, performRts, pullAddr_eq]
  rfl

theorem exec_rti (s : State) :
    exec .rti s = .next (s.setCpu { s.cpu with
      p := pulledStatus (byteAt s (stackAddr (s.cpu.sp + 1)))
      sp := s.cpu.sp + 3
      pc := mkAddr (byteAt s (stackAddr (s.cpu.sp + 3))) (byteAt s (stackAddr (s.cpu.sp + 2)))
      cyc := 6 }) := by
  have hexec : exec .rti s = performRti 6 s := rfl
  rw [hexec, performRti, returnFromInterrupt_eq]
  rfl

theorem exec_jsr (addr : Addr) (s : State) :
    exec (.jsr addr) s = .next ((pushAddr (s.cpu.pc - 1) s).setCpu
      { s.cpu with pc := addr, sp := s.cpu.sp - 2, cyc := 6 }) := by
  rw [pushAddr_eq]
  have hsp : s.cpu.sp - 1 - 1 = s.cpu.sp - 2 := by bv_omega
  rw [← hsp]
  rfl

/-- Settles O53. -/
theorem jumpsCallsAndReturns : Obligations.JumpsCallsAndReturns := by
  intro s addr
  refine ⟨⟨_, rfl, ⟨⟨rfl, rfl, rfl, rfl, rfl, rfl, rfl⟩, rfl⟩, rfl⟩, fun hs => ?jsr,
    ⟨_, exec_rts s, ⟨⟨rfl, rfl, rfl, rfl, rfl, rfl, rfl⟩, rfl⟩, rfl⟩, ?rti⟩
  case jsr =>
    exact ⟨_, exec_jsr addr s, ⟨rfl, rfl, rfl, rfl, rfl, rfl, rfl⟩, rfl,
      fun b hb => (byteAt_setCpu _ _ b).trans (byteAt_pushAddr hs _ hb), fun b hb => byteAt_cartridge (by rfl) hb⟩
  case rti =>
    exact ⟨_, exec_rti s, ⟨⟨⟨rfl, rfl, rfl, rfl, rfl, rfl, rfl⟩, rfl⟩, rfl, rfl, rfl, rfl, rfl, rfl⟩,
      fun f => getFlag_pulledStatus f _⟩

/-- The CPU after an interrupt was taken through a cartridge vector. -/
theorem enterInterrupt_cpu {vector : Addr} (h : 0x4020 ≤ vector) (h' : 0x4020 ≤ vector + 1) (ret : Addr)
    (status : Byte) (s : State) :
    (enterInterrupt vector ret status s).cpu = { s.cpu with
      sp := s.cpu.sp - 3
      p := setFlag .i true s.cpu.p
      pc := mkAddr (byteAt s (vector + 1)) (byteAt s vector) } := by
  rw [enterInterrupt_ram h h', State.setCpu_cpu, readProgram_eq_byteAt s h, readProgram_eq_byteAt s h']

/-- Outside CPU and RAM an interrupt changes nothing. -/
theorem sameOutsideCpuAndRam_enterInterrupt {vector : Addr} (h : 0x4020 ≤ vector) (h' : 0x4020 ≤ vector + 1) (ret : Addr)
    (status : Byte) (s : State) (c : Cpu) : SameOutsideCpuAndRam s ((enterInterrupt vector ret status s).setCpu c) := by
  rw [enterInterrupt_ram h h']
  exact ⟨rfl, rfl, rfl, rfl, rfl, rfl, rfl⟩

/-- BRK in one equation (49_system.md R235). -/
theorem exec_brk (s : State) :
    exec .brk s = .next ((enterInterrupt brkVector (s.cpu.pc + 1) (pushedStatus s.cpu.p) s).setCpu { s.cpu with
      sp := s.cpu.sp - 3
      p := setFlag .i true s.cpu.p
      pc := mkAddr (byteAt s 0xFFFF) (byteAt s 0xFFFE)
      cyc := 7 }) := by
  have hcpu := enterInterrupt_cpu (vector := brkVector) (by decide) (by decide) (s.cpu.pc + 1) (pushedStatus s.cpu.p) s
  have hexec : exec .brk s = .next ((enterBrk s).mapCpu (·.setCyc 7)) := rfl
  rw [hexec, enterBrk, State.mapCpu, hcpu]
  rfl

/-- The entry of NMI in one equation (60_exceptions.md R377). -/
theorem enterNmi_eq (s : State) :
    enterNmi s = (enterInterrupt nmiVector s.cpu.pc s.cpu.p s).setCpu { s.cpu with
      sp := s.cpu.sp - 3
      p := setFlag .i true s.cpu.p
      pc := mkAddr (byteAt s 0xFFFB) (byteAt s 0xFFFA)
      cyc := s.cpu.cyc + s.fixed.params.nmiCycles } := by
  have hcpu := enterInterrupt_cpu (vector := nmiVector) (by decide) (by decide) s.cpu.pc s.cpu.p s
  rw [enterNmi, State.mapCpu, hcpu]
  rfl

/-- Settles O58: both take an interrupt, with a cost. -/
theorem brkAndNmiEnterTheirVectors : Obligations.BrkAndNmiEnterTheirVectors := by
  refine ⟨fun s hs => ?brk, fun s hs => ?nmi⟩
  case brk =>
    have hb : (0x4020 : Addr) ≤ brkVector ∧ (0x4020 : Addr) ≤ brkVector + 1 := by decide
    have hsame := sameOutsideCpuAndRam_enterInterrupt hb.1 hb.2 (s.cpu.pc + 1) (pushedStatus s.cpu.p) s
    exact ⟨_, pushedStatus s.cpu.p, exec_brk s, hsame _, rfl, rfl, rfl, rfl, rfl, rfl,
      (Cpu.flag_setFlag .i .i true s.cpu).trans (if_pos rfl), sameFlagsBut_setFlag .i true s.cpu,
      fun f => getFlag_pushedStatus f s.cpu.p,
      fun b hle => (byteAt_setCpu _ _ b).trans (byteAt_enterInterrupt hs hb.1 hb.2 _ _ hle),
      fun b hle => byteAt_cartridge (hsame _).fixed hle⟩
  case nmi =>
    have hn : (0x4020 : Addr) ≤ nmiVector ∧ (0x4020 : Addr) ≤ nmiVector + 1 := by decide
    have hsame := sameOutsideCpuAndRam_enterInterrupt hn.1 hn.2 s.cpu.pc s.cpu.p s
    dsimp only
    rw [enterNmi_eq]
    exact ⟨hsame _, rfl, rfl, rfl, rfl, rfl, rfl,
      (Cpu.flag_setFlag .i .i true s.cpu).trans (if_pos rfl), sameFlagsBut_setFlag .i true s.cpu,
      fun b hle => (byteAt_setCpu _ _ b).trans (byteAt_enterInterrupt hs hn.1 hn.2 _ _ hle),
      fun b hle => byteAt_cartridge (hsame _).fixed hle⟩

/-! Returns -/

/-- A stack address names the cell of another only where `SP` has the same value. -/
theorem stackAddr_cell (a b : Byte) : stackAddr a &&& 0x07FF = stackAddr b ↔ a = b := by
  rw [stackAddr_mask, stackAddr_inj]

/-- RTS from the state that a call left (47_jump_branch.md R207, R208). -/
theorem rts_after_pushAddr {s u : State} (hs : Memory.wf 0 2048 s.ram) {w : Addr} {c : Cpu} (hsp : c.sp = s.cpu.sp - 2)
    (h : exec .rts ((pushAddr w s).setCpu c) = .next u) : u.cpu.pc = w + 1 ∧ u.cpu.sp = s.cpu.sp := by
  rw [exec_rts] at h
  cases h
  have h1 : c.sp + 1 = s.cpu.sp - 1 := by rw [hsp]; bv_omega
  have h2 : c.sp + 2 = s.cpu.sp := by rw [hsp]; bv_omega
  have hne : s.cpu.sp ≠ s.cpu.sp - 1 := by bv_omega
  have hread := fun sp : Byte => (byteAt_setCpu c (pushAddr w s) (stackAddr sp)).trans
    (byteAt_pushAddr hs w (stackAddr_le sp))
  simp only [State.setCpu_cpu, h1, h2, hread, stackAddr_cell, if_true, if_neg hne, mkAddr_hiByte_loByte, and_self]

/-- RTI from the state that an interrupt left (49_system.md R235, R237, 60_exceptions.md R377). -/
theorem rti_after_enterInterrupt {s u : State} (hs : Memory.wf 0 2048 s.ram) {vector : Addr} (h : 0x4020 ≤ vector)
    (h' : 0x4020 ≤ vector + 1) {ret : Addr} {status : Byte} {c : Cpu} (hsp : c.sp = s.cpu.sp - 3)
    (hu : exec .rti ((enterInterrupt vector ret status s).setCpu c) = .next u) :
    u.cpu.pc = ret ∧ u.cpu.sp = s.cpu.sp ∧
      ∀ f, u.cpu.flag f = if f = .b then false else if f = .u then true else getFlag f status := by
  rw [exec_rti] at hu
  cases hu
  have h1 : c.sp + 1 = s.cpu.sp - 2 := by rw [hsp]; bv_omega
  have h2 : c.sp + 2 = s.cpu.sp - 1 := by rw [hsp]; bv_omega
  have h3 : c.sp + 3 = s.cpu.sp := by rw [hsp]; bv_omega
  have hne1 : s.cpu.sp - 1 ≠ s.cpu.sp - 2 := by bv_omega
  have hne2 : s.cpu.sp ≠ s.cpu.sp - 2 := by bv_omega
  have hne3 : s.cpu.sp ≠ s.cpu.sp - 1 := by bv_omega
  have hread := fun sp : Byte => (byteAt_setCpu c (enterInterrupt vector ret status s) (stackAddr sp)).trans
    (byteAt_enterInterrupt hs h h' ret status (stackAddr_le sp))
  simp only [State.setCpu_cpu, h1, h2, h3, hread, stackAddr_cell, if_true, if_neg hne1, if_neg hne2, if_neg hne3,
    mkAddr_hiByte_loByte, true_and]
  exact fun f => getFlag_pulledStatus f status

/-- Settles O55. -/
theorem callsAndInterruptsReturn : Obligations.CallsAndInterruptsReturn := by
  intro s t u hs
  refine ⟨fun addr ht hu => ?call, fun ht hu => ?brk, fun hu => ?nmi⟩
  case call =>
    rw [exec_jsr] at ht
    cases ht
    obtain ⟨hpc, hsp⟩ := rts_after_pushAddr hs rfl hu
    exact ⟨hpc.trans (by bv_omega), hsp⟩
  case brk =>
    rw [exec_brk] at ht
    cases ht
    obtain ⟨hpc, hsp, hflags⟩ := rti_after_enterInterrupt hs (by decide) (by decide) rfl hu
    refine ⟨hpc, hsp, fun f => (hflags f).trans ?_⟩
    rw [getFlag_pushedStatus]
    split_ifs <;> simp_all [Cpu.flag]
  case nmi =>
    rw [enterNmi_eq] at hu
    exact rti_after_enterInterrupt hs (by decide) (by decide) rfl hu

/-! Branches -/

theorem hiByte_eq_iff (a b : Addr) : hiByte a = hiByte b ↔ a.toNat / 256 = b.toNat / 256 := by
  rw [← hiByte_toNat, ← hiByte_toNat, BitVec.toNat_inj]

/-- Settles O56. -/
theorem branchesTestTheirFlag : Obligations.BranchesTestTheirFlag := by
  intro i b1 f value s hb hi next target
  have htarget : branchTarget s.cpu.pc b1 = target := branchTarget_eq_branchDestination s.cpu.pc b1
  rw [exec_branch hi hb, branchInstr, htarget, branchTo_next]
  by_cases hf : s.cpu.flag f = value
  · refine ⟨_, congrArg _ (if_pos (beq_iff_eq.mpr hf)), ⟨⟨rfl, rfl, rfl, rfl, rfl, rfl, rfl⟩, rfl⟩, ?_⟩
    rw [if_pos hf]
    by_cases hpage : hiByte target = hiByte s.cpu.pc
    · rw [if_neg (not_not.mpr hpage), if_pos ((hiByte_eq_iff target s.cpu.pc).mp hpage)]
      rfl
    · rw [if_pos hpage, if_neg (mt (hiByte_eq_iff target s.cpu.pc).mpr hpage)]
      rfl
  · refine ⟨_, congrArg _ (if_neg (mt beq_iff_eq.mp hf)), ⟨⟨rfl, rfl, rfl, rfl, rfl, rfl, rfl⟩, rfl⟩, ?_⟩
    rw [if_neg hf]
    rfl

/-! NOP -/

/-- Settles O59: with `UNDEF_OP` a no-op in implied mode the undefined opcode is NOP with another cost. -/
theorem nopAndUndefinedOpcodesDoNothing : Obligations.NopAndUndefinedOpcodesDoNothing := by
  refine fun s => ⟨⟨_, rfl, ⟨⟨rfl, rfl, rfl, rfl, rfl, rfl, rfl⟩, rfl⟩, rfl⟩, fun hop hmode op => ?_⟩
  have hund : exec (.und op) s = executeEntry s.fixed.params.undefOp.operation s.fixed.params.undefOp.mode
      s.fixed.params.undefOp.cycles s := rfl
  have hexec : exec (.und op) s = performNop s.fixed.params.undefOp.cycles s := by
    rw [hund, hmode]
    rcases hop with h | h <;> (rw [h]; rfl)
  exact ⟨_, hexec, ⟨⟨rfl, rfl, rfl, rfl, rfl, rfl, rfl⟩, rfl⟩, rfl⟩

end Sys2Proof.Machine
end

section
/-! PROOF. The decimal flag (44_arithmetic.md R177): writing it commutes with the read of an operand, which does not look
at the flags, and with the flags that an addition writes. -/

namespace Sys2Proof.Machine

/-! Flags -/

/-- A status byte is its eight flags (10_state.md R25). -/
theorem eq_of_getFlag_eq {p q : Byte} (h : ∀ f, getFlag f p = getFlag f q) : p = q := by
  apply BitVec.eq_of_getLsbD_eq
  intro i hi
  obtain ⟨f, rfl⟩ : ∃ f : Flag, f.bit = i := by
    interval_cases i
    exacts [⟨.c, rfl⟩, ⟨.z, rfl⟩, ⟨.i, rfl⟩, ⟨.d, rfl⟩, ⟨.b, rfl⟩, ⟨.u, rfl⟩, ⟨.v, rfl⟩, ⟨.n, rfl⟩]
  exact h f

/-- Writes of two different flags commute. -/
theorem Cpu.setFlag_comm {f g : Flag} (h : f ≠ g) (a b : Bool) (c : Cpu) :
    (c.setFlag f a).setFlag g b = (c.setFlag g b).setFlag f a := by
  have hp : Machine.setFlag g b (Machine.setFlag f a c.p) = Machine.setFlag f a (Machine.setFlag g b c.p) := by
    refine eq_of_getFlag_eq fun k => ?_
    rw [getFlag_setFlag, getFlag_setFlag, getFlag_setFlag, getFlag_setFlag]
    by_cases hg : k = g
    · rw [if_pos hg, if_neg (fun hf => h (hf.symm.trans hg)), if_pos hg]
    · rw [if_neg hg, if_neg hg]
  exact congrArg c.setP hp

/-- An addition commutes with writing the decimal flag: it writes four other flags and `A`. -/
theorem Cpu.takeSum_setFlag_d (sum : AddResult) (d : Bool) (c : Cpu) :
    (c.setFlag .d d).takeSum sum = (c.takeSum sum).setFlag .d d := by
  have hset : ∀ (v : Byte) (c : Cpu), (c.setFlag .d d).setA v = (c.setA v).setFlag .d d := fun _ _ => rfl
  simp only [Cpu.takeSum, Cpu.setZN, hset, Cpu.setFlag_comm (f := .d) (g := .c) (by decide),
    Cpu.setFlag_comm (f := .d) (g := .v) (by decide), Cpu.setFlag_comm (f := .d) (g := .z) (by decide),
    Cpu.setFlag_comm (f := .d) (g := .n) (by decide)]

/-- The sum that ADC and SBC take. -/
def sumOf (op : Operation) (m : Byte) (c : Cpu) : AddResult :=
  if op = .adc then addWithCarry c.a m (c.flag .c) else subWithBorrow c.a m (c.flag .c)

theorem readEffect_sum {op : Operation} (h : op = .adc ∨ op = .sbc) :
    readEffect op = some fun m c => c.takeSum (sumOf op m c) := by
  rcases h with rfl | rfl <;> rfl

theorem sumOf_setFlag_d (op : Operation) (m : Byte) (d : Bool) (c : Cpu) : sumOf op m (c.setFlag .d d) = sumOf op m c := by
  have hcarry : (c.setFlag .d d).flag .c = c.flag .c := Cpu.flag_setFlag .c .d d c
  rw [sumOf, hcarry]
  rfl

/-! Operands -/

/-- An operation that reads an operand has one. -/
theorem operand_of_readEffect {i : Instr} {f : Byte → Cpu → Cpu} (hf : readEffect i.operation = some f) :
    ∃ r, i.operand = .src r := by
  cases i <;> first
    | (cases hf; done)
    | exact ⟨_, rfl⟩

/-- Addressing reads the index registers of the CPU and nothing else. -/
theorem resolve_setCpu (m : MemOperand) {c : Cpu} {s : State} (hx : c.x = s.cpu.x) (hy : c.y = s.cpu.y) :
    resolve m (s.setCpu c) = resolve m s := by
  cases m <;> simp only [resolve, State.setCpu_cpu, hx, hy] <;> rfl

/-- The operand read and a change of the CPU that keeps A, X, Y commute. -/
theorem fetchOperand_setCpu (r : Source) {c : Cpu} {s : State} (ha : c.a = s.cpu.a) (hx : c.x = s.cpu.x)
    (hy : c.y = s.cpu.y) :
    fetchOperand r (s.setCpu c) = ((fetchOperand r s).1, (fetchOperand r s).2.setCpu c) := by
  cases r with
  | imm b => rfl
  | acc => exact congrArg (·, s.setCpu c) ha
  | mem m => rw [fetchOperand, resolve_setCpu m hx hy, memRead_setCpu]; rfl

theorem crossCost_setCpu (i : Instr) {c : Cpu} {s : State} (hx : c.x = s.cpu.x) (hy : c.y = s.cpu.y) :
    crossCost i (s.setCpu c) = crossCost i s := by
  unfold crossCost
  split
  next m _ => rw [resolve_setCpu m hx hy]
  next => rfl

/-- Settles O49. -/
theorem decimalFlagIsInert : Obligations.DecimalFlagIsInert := by
  intro i s d hop
  have hf := readEffect_sum hop
  obtain ⟨r, hr⟩ := operand_of_readEffect hf
  refine ⟨_, exec_read_eq hf hr s, ?_⟩
  have hfetch := fetchOperand_setCpu r (c := s.cpu.setFlag .d d) (s := s) rfl rfl rfl
  have hcross := crossCost_setCpu i (c := s.cpu.setFlag .d d) (s := s) rfl rfl
  rw [exec_read_eq hf hr, State.mapCpu, hfetch, hcross, State.setCpu_cpu, sumOf_setFlag_d, Cpu.takeSum_setFlag_d]
  rfl

end Sys2Proof.Machine
end

section
/-! PROOF. Stores and read-modify-writes (41_load_store.md R144 to R146, 45_incdec.md R185 to R187, 46_shift_rotate.md
R195 to R199): one write of the effective address, by the range that it lies in, and the byte written as a number. -/

namespace Sys2Proof.Machine

/-! Writes of the devices -/

/-- Bit 0 of a byte says that it is odd. -/
theorem getLsbD_zero (v : Byte) : v.getLsbD 0 = decide (v.toNat % 2 = 1) := by
  rw [BitVec.getLsbD, Nat.testBit_zero]

/-- A write in $2000 to $401F: the PPU, the DMA unit and the trace after it (20_memory.md R64, R65; decision D18). -/
theorem memWrite_device {a : Addr} (h : 0x2000 ≤ a) (h' : a ≤ 0x401F) (v : Byte) (s : State) :
    memWrite a v s = some { s with
      ppu :=
        if a ≤ 0x3FFF then ppuRegWrite s.fixed (BitVec.ofNat 3 (a.toNat % 8)) v s.ppu
        else if a = 0x4014 then { s.ppu with oamAddr := 0 } else s.ppu
      dma := if a = 0x4014 then { active := true, dummy := true, page := v, index := 0, data := s.dma.data } else s.dma
      trace :=
        if a = 0x4016 then .joypadStrobe (decide (v.toNat % 2 = 1)) :: s.trace
        else if 0x4000 ≤ a ∧ a ≤ 0x4017 ∧ a ≠ 0x4014 then .audioWrite a v :: s.trace
        else s.trace } := by
  by_cases hppu : a ≤ 0x3FFF
  · rw [memWrite_ppu h hppu, if_pos hppu, if_neg (by bv_omega), if_neg (by bv_omega), if_neg (by bv_omega)]
    rfl
  rw [if_neg hppu]
  by_cases hdma : a = 0x4014
  · subst hdma
    rfl
  rw [if_neg hdma, if_neg hdma]
  by_cases hstrobe : a = 0x4016
  · subst hstrobe
    rw [if_pos rfl, ← getLsbD_zero]
    rfl
  rw [if_neg hstrobe]
  by_cases haudio : a ≤ 0x4017
  · have ht : cpuTarget a = .audio ∨ cpuTarget a = .joypad1 := by
      unfold cpuTarget
      rw [if_neg (by bv_omega), if_neg hppu, if_neg hdma, if_neg hstrobe]
      by_cases h7 : a = 0x4017
      · exact .inr (if_pos h7)
      · exact .inl ((if_neg h7).trans (if_pos (by bv_omega)))
    rw [if_pos ⟨by bv_omega, haudio, hdma⟩]
    rcases ht with ht | ht <;> (simp only [memWrite, ht]; rfl)
  · have ht : cpuTarget a = .nothing := by
      unfold cpuTarget
      rw [if_neg (by bv_omega), if_neg hppu, if_neg hdma, if_neg hstrobe, if_neg (by bv_omega), if_neg (by bv_omega),
        if_pos h']
    rw [if_neg fun hr => haudio hr.2.1]
    simp only [memWrite, ht]

/-! Stores -/

/-- A store is one write of its effective address (41_load_store.md R140). -/
theorem exec_store_eq {i : Instr} {m : MemOperand} {s : State} {v : Byte} (hm : i.operand = .src (.mem m))
    (hv : storeValue i.operation s.cpu = some v) :
    exec i s = writeThen (resolve m s).ea v s (·.charge (patternCost i.operation i.mode)) := by
  rw [exec_store hv hm, storeInstr_eq]

/-- Settles O41. -/
theorem storesWriteTheirTarget : Obligations.StoresWriteTheirTarget := by
  refine ⟨fun i m v s hm hv hs => ?ram, fun i m v s hm hv => ?device⟩
  case ram =>
    intro ea hea
    rw [exec_store_eq hm hv, writeThen_some (memWrite_ram hea v s)]
    exact ⟨_, rfl, fun b hb => (byteAt_setCpu _ _ b).trans (ramAfterWrite_setRam ea v hs b hb),
      fun b hb => byteAt_cartridge (by rfl) hb, ⟨rfl, rfl, rfl, rfl, rfl⟩, rfl, ⟨rfl, rfl, rfl, rfl, rfl, rfl, rfl⟩, rfl⟩
  case device =>
    intro ea hea hea'
    rw [exec_store_eq hm hv, writeThen_some (memWrite_device hea hea' v s)]
    exact ⟨_, rfl, ⟨rfl, rfl, rfl, rfl, rfl⟩, rfl, rfl, memoryKept_of_eq rfl rfl, rfl, rfl, rfl, rfl, rfl, rfl, rfl, rfl⟩

/-! The byte that a read-modify-write writes -/

/-- The shifts and rotates as numbers (46_shift_rotate.md R196 to R199). -/
theorem shiftOf_spec {op : Operation} {f : Bool → Byte → ShiftResult} (hf : shiftOf op = some f) (carry : Bool) (m : Byte) :
    modifyResult op carry m.toNat = some (f carry m).value.toNat ∧
      (f carry m).carry = modifyCarry op carry m.toNat := by
  have hm := m.isLt
  cases op <;> first
    | (cases hf; done)
    | cases hf
  case asl => exact ⟨congrArg some (by simp [shiftAsl]; omega), getLsbD_seven m⟩
  case lsr => exact ⟨congrArg some (by simp [shiftLsr]; omega), getLsbD_zero m⟩
  case rol =>
    have hbits : (shiftRol carry m).value = m.extractLsb' 0 7 ++ BitVec.ofBool carry := by
      apply BitVec.eq_of_getLsbD_eq
      intro i hi
      rw [shiftRol, BitVec.getLsbD_or, BitVec.getLsbD_append]
      cases carry <;> interval_cases i <;> simp
    rw [hbits, toNat_append_eq_add, BitVec.extractLsb'_toNat, BitVec.toNat_ofBool]
    exact ⟨congrArg some (by cases carry <;> simp <;> omega), getLsbD_seven m⟩
  case ror =>
    have hbits : (shiftRor carry m).value = BitVec.ofBool carry ++ m.extractLsb' 1 7 := by
      apply BitVec.eq_of_getLsbD_eq
      intro i hi
      rw [shiftRor, BitVec.getLsbD_or, BitVec.getLsbD_append]
      cases carry <;> interval_cases i <;> simp
    rw [hbits, toNat_append_eq_add, BitVec.extractLsb'_toNat, BitVec.toNat_ofBool, Nat.shiftRight_eq_div_pow]
    exact ⟨congrArg some (by cases carry <;> simp <;> omega), getLsbD_zero m⟩

theorem Cpu.setFlag_self (f : Flag) (c : Cpu) : c.setFlag f (c.flag f) = c := by
  have hp : Machine.setFlag f (c.flag f) c.p = c.p := eq_of_getFlag_eq fun g => by
    rw [getFlag_setFlag]
    split
    next h => rw [h]; rfl
    next => rfl
  rw [Cpu.setFlag, hp]
  rfl

/-- A read-modify-write as numbers: the byte that it writes, and the carry that it leaves before the write. -/
theorem modifyEffect_spec {op : Operation} {f : (Byte → Cpu → Cpu) × (Byte → Cpu → Byte)} (hf : modifyEffect op = some f)
    (b : Byte) (c : Cpu) :
    modifyResult op (c.flag .c) b.toNat = some (f.2 b c).toNat ∧
      f.1 b c = c.setFlag .c (modifyCarry op (c.flag .c) b.toNat) := by
  have hb := b.isLt
  have kept : c.setFlag .c (c.flag .c) = c := Cpu.setFlag_self .c c
  have shift : ∀ op g, shiftOf op = some g → modifyResult op (c.flag .c) b.toNat = some (g (c.flag .c) b).value.toNat ∧
      c.setFlag .c (g (c.flag .c) b).carry = c.setFlag .c (modifyCarry op (c.flag .c) b.toNat) := fun op g hg =>
    ⟨(shiftOf_spec hg _ b).1, congrArg (c.setFlag .c) (shiftOf_spec hg _ b).2⟩
  cases op <;> first
    | (cases hf; done)
    | (cases hf; exact shift _ _ rfl)
    | cases hf
  case inc => exact ⟨congrArg some (by bv_omega), kept.symm⟩
  case dec => exact ⟨congrArg some (by bv_omega), kept.symm⟩

/-- An operation with a result is a read-modify-write that writes it. -/
theorem modifyEffect_of_result {op : Operation} {b : Byte} {c : Cpu} {n : Nat}
    (h : modifyResult op (c.flag .c) b.toNat = some n) :
    ∃ f, modifyEffect op = some f ∧ f.2 b c = BitVec.ofNat 8 n ∧
      f.1 b c = c.setFlag .c (modifyCarry op (c.flag .c) b.toNat) := by
  obtain ⟨f, hf⟩ : ∃ f, modifyEffect op = some f := by
    cases op <;> first
      | exact ⟨_, rfl⟩
      | cases h
  obtain ⟨hresult, hbefore⟩ := modifyEffect_spec hf b c
  have hn : (f.2 b c).toNat = n := Option.some.inj (hresult.symm.trans h)
  exact ⟨f, hf, by rw [← hn, BitVec.ofNat_toNat, BitVec.setWidth_eq], hbefore⟩

/-- A memory form of a read-modify-write is `modifyInstr` with the operation's effect and the form's base cost. -/
theorem exec_modify {i : Instr} {m : MemOperand} {f : (Byte → Cpu → Cpu) × (Byte → Cpu → Byte)}
    (hf : modifyEffect i.operation = some f) (hm : i.operand = .src (.mem m)) (s : State) :
    exec i s = modifyInstr m (patternCost i.operation i.mode) f.1 f.2 s := by
  cases i <;> first
    | (cases hf; done)
    | (cases hf; cases hm; done)
    | (cases hf; cases hm; rfl)

section Modify
variable {i : Instr} {m : MemOperand} {s : State} {r b : Byte} {u : State}

/-- A memory form of a read-modify-write whose write happens (45_incdec.md R185, 46_shift_rotate.md R195). -/
theorem exec_modify_some (hm : i.operand = .src (.mem m)) (hread : memRead (resolve m s).ea s = (b, u))
    (hr : modifyResult i.operation (s.cpu.flag .c) b.toNat = some r.toNat) {w : State}
    (hw : memWrite (resolve m s).ea r u = some w) :
    exec i s = .next (w.setCpu (((s.cpu.setFlag .c (modifyCarry i.operation (s.cpu.flag .c) b.toNat)).setZN r).setCyc
      (patternCost i.operation i.mode))) := by
  obtain ⟨f, hf, hresult, hbefore⟩ := modifyEffect_of_result hr
  rw [BitVec.ofNat_toNat, BitVec.setWidth_eq] at hresult
  rw [exec_modify hf hm, modifyInstr_eq]
  simp only [hread, hresult, hbefore, hw]

/-- A memory form of a read-modify-write whose write raises the fatal condition (60_exceptions.md R385). -/
theorem exec_modify_none (hm : i.operand = .src (.mem m)) (hread : memRead (resolve m s).ea s = (b, u))
    (hr : modifyResult i.operation (s.cpu.flag .c) b.toNat = some r.toNat)
    (hw : memWrite (resolve m s).ea r u = none) :
    exec i s = .next (raiseFatal (resolve m s).ea r
      (u.setCpu (s.cpu.setFlag .c (modifyCarry i.operation (s.cpu.flag .c) b.toNat)))) := by
  obtain ⟨f, hf, hresult, hbefore⟩ := modifyEffect_of_result hr
  rw [BitVec.ofNat_toNat, BitVec.setWidth_eq] at hresult
  rw [exec_modify hf hm, modifyInstr_eq]
  simp only [hread, hresult, hbefore, hw]

end Modify

/-- The other flags after a read-modify-write. -/
theorem sameFlagsBut_modify (v : Bool) (r : Byte) (c : Cpu) : SameFlagsBut [.c, .z, .n] c ((c.setFlag .c v).setZN r) := by
  intro f hf
  simp only [List.mem_cons, List.not_mem_nil, or_false, not_or] at hf
  obtain ⟨hc, hz, hn⟩ := hf
  rw [Cpu.flag_setZN, if_neg hn, if_neg hz, Cpu.flag_setFlag, if_neg hc]

theorem flag_c_modify (v : Bool) (r : Byte) (c : Cpu) : ((c.setFlag .c v).setZN r).flag .c = v := by
  rw [Cpu.flag_setZN, if_neg (by decide), if_neg (by decide), Cpu.flag_setFlag, if_pos rfl]

/-- Settles O42: the write is refused and what came before it is kept. -/
theorem cartridgeWritesAreFatal : Obligations.CartridgeWritesAreFatal := by
  intro i m s hm ea b carry hea
  refine ⟨fun v hv => ?store, fun r hr => ?modify⟩
  case store =>
    rw [exec_store_eq hm hv, writeThen_fatal hea]
    rfl
  case modify =>
    have hexec := exec_modify_none hm (memRead_cartridge hea s) hr ((memWrite_eq_none_iff _ r s).mpr hea)
    exact ⟨_, hexec, rfl, ⟨rfl, rfl, rfl, rfl, rfl, rfl, rfl⟩, ⟨rfl, rfl, rfl, rfl, rfl⟩, rfl,
      (Cpu.flag_setFlag .c .c _ s.cpu).trans (if_pos rfl), sameFlagsBut_setFlag .c _ s.cpu⟩

/-- RAM after a read-modify-write of a RAM address. -/
theorem ramAfterWrite_modify {ea : Addr} {r : Byte} {s w : State} (hw : memWrite ea r (memRead ea s).2 = some w)
    (hea : ea ≤ 0x1FFF) (hs : Memory.wf 0 2048 s.ram) (c : Cpu) : RamAfterWrite ea r s (w.setCpu c) := by
  rw [memRead_ram hea, memWrite_ram hea] at hw
  cases hw
  exact fun b hb => (byteAt_setCpu _ _ b).trans (ramAfterWrite_setRam ea r hs b hb)

/-- Settles O52. -/
theorem modifyInstructionsWriteBack : Obligations.ModifyInstructionsWriteBack := by
  refine ⟨fun i m s r hm => ?memory, fun i s r hacc hr => ?accumulator⟩
  case memory =>
    intro ea b u hr hea
    obtain ⟨w, hw⟩ : ∃ w, memWrite ea r u = some w :=
      Option.ne_none_iff_exists'.mp (mt (memWrite_eq_none_iff ea r u).mp (by bv_omega))
    obtain ⟨-, hfatal, -, hfixed, -⟩ := memWrite_frame hw
    exact ⟨_, w, exec_modify_some hm rfl hr hw, hw, ⟨rfl, rfl, rfl, rfl, rfl, rfl, rfl⟩, hfatal.trans (memRead_fatal ea s), ⟨rfl, rfl, rfl, rfl, rfl⟩,
      znOf_setZN r _, flag_c_modify _ r s.cpu, sameFlagsBut_modify _ r s.cpu, rfl,
      fun hram hs => ramAfterWrite_modify hw hram hs _,
      fun hdevice => (memWrite_ramKept hw hdevice).trans (memRead_ramKept ea s),
      fun b hb => (byteAt_setCpu _ _ b).trans (byteAt_cartridge (hfixed.trans (memRead_fixed ea s)) hb)⟩
  case accumulator =>
    obtain ⟨f, hf⟩ := shiftOf_of_acc hacc
    obtain ⟨hresult, hcarry⟩ := shiftOf_spec hf (s.cpu.flag .c) s.cpu.a
    have hvalue : (f (s.cpu.flag .c) s.cpu.a).value = r :=
      BitVec.eq_of_toNat_eq (Option.some.inj (hresult.symm.trans hr))
    rw [exec_shiftAcc hf hacc, ← hcarry, ← hvalue]
    exact ⟨_, rfl, ⟨⟨⟨rfl, rfl, rfl, rfl, rfl, rfl, rfl⟩, rfl⟩, rfl, rfl, rfl, rfl, rfl, rfl⟩,
      znOf_setZN _ ((s.cpu.setFlag .c _).setA _), flag_c_modify _ _ s.cpu, sameFlagsBut_modify _ _ s.cpu⟩

end Sys2Proof.Machine
end

section
/-! PROOF. Effective addresses as numbers (40_addressing.md R120 to R135), and what resolving a mode at `pc` reads. -/

namespace Sys2Proof.Machine

/-- A zero-page address as a number. -/
theorem zeroPage_eq (a : Byte) : mkAddr 0x00 a = BitVec.ofNat 16 a.toNat := by
  rw [mkAddr_eq_ofNat]
  exact congrArg (BitVec.ofNat 16) (Nat.zero_add _)

theorem zeroPage_toNat (a : Byte) : (mkAddr 0x00 a).toNat = a.toNat := by
  rw [mkAddr_toNat]
  exact (congrArg (· + a.toNat) (Nat.zero_mul 256)).trans (Nat.zero_add _)

theorem zeroPageByte_eq (s : State) (a : Byte) : zeroPageByte s a = byteAt s (BitVec.ofNat 16 a.toNat) := by
  rw [← zeroPage_eq, byteAt, memRead_zeroPage]

/-- A pointer in the zero page, low byte first (40_addressing.md R132, R133). -/
theorem zeroPagePointer_toNat (s : State) (a : Byte) :
    let zp := fun n : Nat => (byteAt s (BitVec.ofNat 16 (n % 256))).toNat
    (zeroPagePointer s a).toNat = zp a.toNat + 256 * zp (a.toNat + 1) := by
  have ha : a.toNat % 256 = a.toNat := Nat.mod_eq_of_lt a.isLt
  have hnext : (a + 1).toNat = (a.toNat + 1) % 256 := BitVec.toNat_add a 1
  dsimp only
  rw [zeroPagePointer, mkAddr_toNat, zeroPageByte_eq, zeroPageByte_eq, hnext, ha, Nat.add_comm, Nat.mul_comm]

/-- An index added to a base: the address and the page crossing as numbers (40_addressing.md R129, R130). -/
theorem indexed_toNat (base : Addr) (index : Byte) :
    (indexed base index).ea.toNat = (base.toNat + index.toNat) % 65536 ∧
      (indexed base index).crossed = decide (255 < base.toNat % 256 + index.toNat) := by
  have hea : (base + index.setWidth 16).toNat = (base.toNat + index.toNat) % 65536 := by
    rw [BitVec.toNat_add, BitVec.toNat_setWidth_of_le (by decide)]
  refine ⟨hea, decide_eq_decide.mpr ?_⟩
  have hbase := base.isLt
  have hindex := index.isLt
  rw [ne_eq, hiByte_eq_iff, hea]
  omega

/-! Operand bytes -/

theorem fetchBytes_one (s : State) : fetchBytes 1 s = ([(fetchByte s).1], (fetchByte s).2) := rfl

/-- The two operand bytes of a mode, low byte first. -/
theorem fetchBytes_two (s : State) :
    fetchBytes 2 s = ([loByte (fetchAddr s).1, hiByte (fetchAddr s).1], (fetchAddr s).2) := by
  rw [fetchAddr, loByte_mkAddr, hiByte_mkAddr]
  rfl

/-- The modes with one operand byte (40_addressing.md R124 to R127, R132, R133). -/
theorem resolveMode_one {s : State} {b : Byte} (h : (fetchBytes 1 s).1 = [b]) :
    let u := (fetchBytes 1 s).2
    (∀ mm : Mode × MemOperand, mm ∈ [(.zp, .zp b), (.zpx, .zpx b), (.zpy, .zpy b), (.izx, .izx b), (.izy, .izy b)] →
      resolveMode mm.1 s = (inMemory mm.2 u, u)) ∧
    resolveMode .rel s = (⟨branchDestination u.cpu.pc b, false, .mem⟩, u) := by
  rw [fetchBytes_one] at h ⊢
  have hb : (fetchByte s).1 = b := List.singleton_inj.mp h
  subst hb
  refine ⟨?_, ?_⟩
  · simp only [List.forall_mem_cons, List.not_mem_nil, false_implies, implies_true, and_true]
    exact ⟨rfl, rfl, rfl, rfl, rfl⟩
  · rw [← branchTarget_eq_branchDestination]
    rfl

/-- The modes with two operand bytes (40_addressing.md R128 to R131). -/
theorem resolveMode_two {s : State} {w : Addr} (h : (fetchBytes 2 s).1 = [loByte w, hiByte w]) :
    let u := (fetchBytes 2 s).2
    (∀ mm : Mode × MemOperand, mm ∈ [(.abs, .abs w), (.abx, .abx w), (.aby, .aby w)] →
      resolveMode mm.1 s = (inMemory mm.2 u, u)) ∧
    resolveMode .ind s = (⟨(resolveIndirect w u).1, false, .mem⟩, (resolveIndirect w u).2) := by
  rw [fetchBytes_two] at h ⊢
  obtain ⟨hlo, hrest⟩ := List.cons.inj h
  have hw : (fetchAddr s).1 = w := by
    rw [← mkAddr_hiByte_loByte (fetchAddr s).1, hlo, List.singleton_inj.mp hrest, mkAddr_hiByte_loByte]
  subst hw
  refine ⟨?_, rfl⟩
  simp only [List.forall_mem_cons, List.not_mem_nil, false_implies, implies_true, and_true]
  exact ⟨rfl, rfl, rfl⟩

/-- Settles O39: the memory modes as numbers, then the 13 modes by their operand bytes. -/
theorem effectiveAddresses : Obligations.EffectiveAddresses := by
  intro s b w x y zp ptr
  have hsum : ∀ i : Byte, (b + i).toNat = (b.toNat + i.toNat) % 256 := fun i => BitVec.toNat_add b i
  have hizx : (zeroPagePointer s (b + s.cpu.x)).toNat = zp (b.toNat + x) + 256 * zp (b.toNat + x + 1) := by
    rw [zeroPagePointer_toNat, hsum]
    dsimp only [zp]
    rw [Nat.mod_mod, Nat.mod_add_mod]
  have hizy : (zeroPagePointer s b).toNat = ptr := zeroPagePointer_toNat s b
  have hindexed := indexed_toNat (zeroPagePointer s b) s.cpu.y
  rw [hizy] at hindexed
  refine ⟨⟨zeroPage_toNat b, rfl⟩, ⟨(zeroPage_toNat _).trans (hsum _), rfl⟩, ⟨(zeroPage_toNat _).trans (hsum _), rfl⟩,
    ⟨rfl, rfl⟩, indexed_toNat w s.cpu.x, indexed_toNat w s.cpu.y, ⟨hizx, rfl⟩, hindexed, ⟨rfl, rfl, rfl⟩,
    resolveMode_one, resolveMode_two, rfl, rfl, fun m => rfl⟩

end Sys2Proof.Machine
end

section
/-! PROOF. OAM DMA (52_clock_dma.md R347 to R349): a transfer is a start of one or two CPU ticks and then 256 pairs of a
read and a write, each pair one step of `dmaCopied`. -/

namespace Sys2Proof.Machine

/-! The clock and the unit do not enter a bus read -/

theorem memRead_setG (a : Addr) (n : Nat) (s : State) :
    memRead a (s.setG n) = ((memRead a s).1, (memRead a s).2.setG n) := by
  unfold memRead
  cases cpuTarget a <;> rfl

theorem memRead_setDma (a : Addr) (d : Dma) (s : State) :
    memRead a (s.setDma d) = ((memRead a s).1, (memRead a s).2.setDma d) := by
  unfold memRead
  cases cpuTarget a <;> rfl

/-! Ticks of the unit -/

theorem dmaTicks_succ (n : Nat) (s : State) : dmaTicks (n + 1) s = dmaTicks n (dmaStep (s.setG (s.g + 3))) := rfl

theorem dmaTicks_add (m n : Nat) (s : State) : dmaTicks (m + n) s = dmaTicks n (dmaTicks m s) := by
  induction m generalizing s with
  | zero => rw [Nat.zero_add]; rfl
  | succ m ih => rw [Nat.succ_add, dmaTicks_succ, ih, dmaTicks_succ]

/-- The unit after `k` bytes of the page `d` (52_clock_dma.md R348). -/
def dmaAfter (d : Byte) (k : Nat) (data : Byte) : Dma :=
  { active := decide (k ≠ 256), dummy := decide (k = 256), page := d, index := BitVec.ofNat 8 k, data := data }

/-- A state with the clock and the unit given. -/
abbrev State.atDma (s : State) (g : Nat) (d : Dma) : State := (s.setG g).setDma d

theorem dmaStep_read {s : State} (hd : s.dma.dummy = false) (hg : s.g / 3 % 2 = 0) : dmaStep s = dmaRead s := by
  rw [dmaStep, hd, oddCpuTick, hg]
  rfl

theorem dmaStep_write {s : State} (hd : s.dma.dummy = false) (hg : s.g / 3 % 2 = 1) : dmaStep s = dmaWrite s := by
  rw [dmaStep, hd, oddCpuTick, hg]
  rfl

theorem dmaTicks_one (c : State) (g : Nat) (d : Dma) :
    dmaTicks 1 (c.atDma g d) = dmaStep ((c.atDma g d).setG (g + 3)) := rfl

/-- The read tick of a pair (52_clock_dma.md R348). -/
theorem dmaTick_read (d : Byte) {k : Nat} (hk : k < 256) (data : Byte) (c : State) {g : Nat} (hg : (g + 3) / 3 % 2 = 0) :
    dmaTicks 1 (c.atDma g (dmaAfter d k data)) =
      (memRead (mkAddr d (BitVec.ofNat 8 k)) c).2.atDma (g + 3)
        (dmaAfter d k (memRead (mkAddr d (BitVec.ofNat 8 k)) c).1) := by
  rw [dmaTicks_one, dmaStep_read (decide_eq_false (by omega)) hg, dmaRead]
  have haddr : dmaAddr ((c.atDma g (dmaAfter d k data)).setG (g + 3)).dma = mkAddr d (BitVec.ofNat 8 k) := rfl
  rw [haddr, memRead_setG, memRead_setDma, memRead_setG]
  rfl

/-- The write tick of a pair (52_clock_dma.md R348). -/
theorem dmaTick_write (d : Byte) {k : Nat} (hk : k < 256) (data : Byte) (c : State) {g : Nat} (hg : (g + 3) / 3 % 2 = 1) :
    dmaTicks 1 (c.atDma g (dmaAfter d k data)) =
      (c.setPpu { c.ppu with oam := Memory.write c.ppu.oam k data }).atDma (g + 3) (dmaAfter d (k + 1) data) := by
  have hindex : (BitVec.ofNat 8 k).toNat = k := Nat.mod_eq_of_lt hk
  have hnext : BitVec.ofNat 8 k + 1 = BitVec.ofNat 8 (k + 1) := (BitVec.ofNat_add k 1).symm
  have hdone : decide (BitVec.ofNat 8 (k + 1) = 0) = decide (k + 1 = 256) := decide_eq_decide.mpr (by bv_omega)
  rw [dmaTicks_one, dmaStep_write (decide_eq_false (by omega)) hg, dmaWrite]
  simp only [dmaAfter, State.setDma_dma, State.setG_dma, hindex, hnext, hdone, decide_not]
  rfl

/-- A pair of ticks copies the next byte of the page (52_clock_dma.md R348). -/
theorem dmaTicks_pair (d : Byte) {k : Nat} (hk : k < 256) (data : Byte) (u : State) {g : Nat} (hg : (g + 3) / 3 % 2 = 0) :
    ∃ data', dmaTicks 2 ((dmaCopied d k u).atDma g (dmaAfter d k data)) =
      (dmaCopied d (k + 1) u).atDma (g + 6) (dmaAfter d (k + 1) data') := by
  rw [dmaTicks_add 1 1, dmaTick_read d hk data _ hg]
  exact ⟨_, dmaTick_write d hk _ _ (by omega)⟩

/-- The transfer after `k` pairs of ticks. -/
theorem dmaTicks_pairs (d : Byte) {k : Nat} (hk : k ≤ 256) (data : Byte) (u : State) {g : Nat} (hg : (g + 3) / 3 % 2 = 0) :
    ∃ data', dmaTicks (2 * k) (u.atDma g (dmaAfter d 0 data)) =
      (dmaCopied d k u).atDma (g + 6 * k) (dmaAfter d k data') := by
  induction k with
  | zero => exact ⟨data, rfl⟩
  | succ k ih =>
    obtain ⟨data', hticks⟩ := ih (by omega)
    obtain ⟨data'', hpair⟩ := dmaTicks_pair d hk data' u (g := g + 6 * k) (by omega)
    exact ⟨data'', by rw [Nat.mul_succ, dmaTicks_add, hticks, hpair, Nat.mul_succ, Nat.add_assoc]⟩

/-- Between two ticks of the transfer's pairs the unit is active. -/
theorem dmaTicks_active (d : Byte) {n : Nat} (hn : n < 512) (data : Byte) (u : State) {g : Nat}
    (hg : (g + 3) / 3 % 2 = 0) : (dmaTicks n (u.atDma g (dmaAfter d 0 data))).dma.active = true := by
  have hk : n / 2 < 256 := by omega
  obtain ⟨data', hticks⟩ := dmaTicks_pairs d hk.le data u hg
  have hactive : ∀ data, (dmaAfter d (n / 2) data).active = true := fun _ => decide_eq_true (by omega)
  rcases Nat.mod_two_eq_zero_or_one n with hr | hr
  · rw [show n = 2 * (n / 2) by omega, hticks]
    exact hactive data'
  · rw [show n = 2 * (n / 2) + 1 by omega, dmaTicks_add, hticks]
    exact (congrArg (fun v : State => v.dma.active) (dmaTick_read d hk data' _ (by omega))).trans (hactive _)

/-! The start -/

/-- The unit's ticks before its first read: one where the write executed in an even CPU tick, else two
(52_clock_dma.md R349). -/
def dmaWait (s : State) : Nat := if s.g / 3 % 2 = 0 then 1 else 2

theorem dmaStep_dummy {s : State} (hd : s.dma.dummy = true) (hg : s.g / 3 % 2 = 0) : dmaStep s = s := by
  rw [dmaStep, hd, oddCpuTick, hg]
  rfl

theorem dmaStep_aligned {s : State} (hd : s.dma.dummy = true) (hg : s.g / 3 % 2 = 1) :
    dmaStep s = s.setDma { s.dma with dummy := false } := by
  rw [dmaStep, hd, oddCpuTick, hg]
  rfl

/-- The transfer right before its first read. -/
theorem dmaTicks_wait (d : Byte) (s : State) (hg : s.g % 3 = 0) :
    dmaTicks (dmaWait s) (dmaStart d s) =
      (dmaStart d s).atDma (s.g + 3 * dmaWait s) (dmaAfter d 0 s.dma.data) := by
  by_cases heven : s.g / 3 % 2 = 0
  · rw [dmaWait, if_pos heven]
    exact dmaStep_aligned (s := (dmaStart d s).setG (s.g + 3)) rfl (show (s.g + 3) / 3 % 2 = 1 by omega)
  · have hwait : dmaStep ((dmaStart d s).setG (s.g + 3)) = (dmaStart d s).setG (s.g + 3) :=
      dmaStep_dummy rfl (show (s.g + 3) / 3 % 2 = 0 by omega)
    rw [dmaWait, if_neg heven, dmaTicks_succ, show (dmaStart d s).g = s.g from rfl, hwait]
    exact dmaStep_aligned (s := (dmaStart d s).setG (s.g + 3 + 3)) rfl (show (s.g + 3 + 3) / 3 % 2 = 1 by omega)

theorem dmaTicks_wait_active (d : Byte) (s : State) (hg : s.g % 3 = 0) {k : Nat} (hk : k < dmaWait s) :
    (dmaTicks k (dmaStart d s)).dma.active = true := by
  match k with
  | 0 => rfl
  | 1 =>
    have hodd : ¬s.g / 3 % 2 = 0 := fun h => by rw [dmaWait, if_pos h] at hk; omega
    have hwait : dmaStep ((dmaStart d s).setG (s.g + 3)) = (dmaStart d s).setG (s.g + 3) :=
      dmaStep_dummy rfl (show (s.g + 3) / 3 % 2 = 0 by omega)
    exact congrArg (fun v : State => v.dma.active) hwait
  | k + 2 =>
    have htwo : dmaWait s ≤ 2 := by unfold dmaWait; split <;> omega
    omega

/-! The whole transfer -/

/-- The ticks of a transfer: the wait and two for each byte (52_clock_dma.md R349). -/
theorem dmaWait_add (s : State) : (if s.g / 3 % 2 = 0 then 513 else 514) = dmaWait s + 512 := by
  unfold dmaWait
  split <;> rfl

theorem dmaWait_read (s : State) (hg : s.g % 3 = 0) : (s.g + 3 * dmaWait s + 3) / 3 % 2 = 0 := by
  unfold dmaWait
  split <;> omega

/-- Before its last tick the unit is active (52_clock_dma.md R349). -/
theorem dmaTicks_transfer_active (d : Byte) (s : State) (hg : s.g % 3 = 0) {k : Nat} (hk : k < dmaWait s + 512) :
    (dmaTicks k (dmaStart d s)).dma.active = true := by
  by_cases hwait : k < dmaWait s
  · exact dmaTicks_wait_active d s hg hwait
  · obtain ⟨j, rfl⟩ : ∃ j, k = dmaWait s + j := ⟨k - dmaWait s, by omega⟩
    rw [dmaTicks_add, dmaTicks_wait d s hg]
    exact dmaTicks_active d (by omega) _ _ (dmaWait_read s hg)

/-- The state after a transfer: the page copied, the unit idle, the clock on. -/
theorem dmaTicks_transfer (d : Byte) (s : State) (hg : s.g % 3 = 0) :
    ∃ data, dmaTicks (dmaWait s + 512) (dmaStart d s) =
      (dmaCopied d 256 (dmaStart d s)).atDma (s.g + 3 * (dmaWait s + 512)) (dmaAfter d 256 data) := by
  obtain ⟨data, hticks⟩ := dmaTicks_pairs d (Nat.le_refl 256) s.dma.data (dmaStart d s) (dmaWait_read s hg)
  refine ⟨data, ?_⟩
  rw [dmaTicks_add, dmaTicks_wait d s hg, show (512 : Nat) = 2 * 256 from rfl, hticks, Nat.mul_add, Nat.add_assoc]

/-- Copying writes OAM and what the bus reads do, and nothing of the rest (52_clock_dma.md R348). -/
theorem dmaCopied_frame (d : Byte) (n : Nat) (s : State) :
    (dmaCopied d n s).cpu = s.cpu ∧ (dmaCopied d n s).ram = s.ram ∧ (dmaCopied d n s).fatal = s.fatal ∧
    (dmaCopied d n s).fixed = s.fixed ∧ (dmaCopied d n s).trace = s.trace := by
  induction n with
  | zero => exact ⟨rfl, rfl, rfl, rfl, rfl⟩
  | succ n ih => simpa [dmaCopied] using ih

/-- Settles O38. -/
theorem dmaReadsAnyPageThroughTheBus : Obligations.DmaReadsAnyPageThroughTheBus := by
  intro d s hg
  dsimp only
  rw [dmaWait_add]
  obtain ⟨data, ht⟩ := dmaTicks_transfer d s hg
  obtain ⟨hcpu, hram, hfatal, hfixed, htrace⟩ := dmaCopied_frame d 256 (dmaStart d s)
  rw [ht]
  exact ⟨fun k hk => dmaTicks_transfer_active d s hg hk, rfl, rfl, rfl, rfl, rfl, rfl, hcpu, hram, hfatal, hfixed, htrace⟩

/-- A page of RAM or of the cartridge has no device in it. -/
theorem mkAddr_page {d : Byte} (hd : d ≤ 0x1F ∨ 0x41 ≤ d) (i : Byte) : mkAddr d i ≤ 0x1FFF ∨ 0x4020 ≤ mkAddr d i := by
  have hmk := mkAddr_toNat d i
  bv_omega

theorem memRead_memory {a : Addr} (h : a ≤ 0x1FFF ∨ 0x4020 ≤ a) (s : State) : memRead a s = (byteAt s a, s) := by
  rcases h with h | h
  · rw [byteAt, memRead_ram h]
  · rw [byteAt, memRead_cartridge h]

/-- The next byte of a page of RAM or of the cartridge. -/
theorem dmaCopied_succ {d : Byte} (hd : d ≤ 0x1F ∨ 0x41 ≤ d) (n : Nat) (s : State) :
    let u := dmaCopied d n s
    dmaCopied d (n + 1) s = u.setPpu { u.ppu with
      oam := Memory.write u.ppu.oam n (byteAt s (mkAddr d (BitVec.ofNat 8 n))) } := by
  obtain ⟨-, hram, -, hfixed, -⟩ := dmaCopied_frame d n s
  have hpage := mkAddr_page hd (BitVec.ofNat 8 n)
  rw [dmaCopied, memRead_memory hpage, byteAt_congr hram hfixed hpage]

/-- Copying a page of RAM or of the cartridge writes its bytes to OAM in order. -/
theorem dmaCopied_page {d : Byte} (hd : d ≤ 0x1F ∨ 0x41 ≤ d) {s : State} (hs : Memory.wf 0 256 s.ppu.oam) {n : Nat}
    (hn : n ≤ 256) :
    ∃ oam, dmaCopied d n s = s.setPpu { s.ppu with oam := oam } ∧ Memory.wf 0 256 oam ∧
      ∀ k < n, Memory.read oam k = byteAt s (mkAddr d (BitVec.ofNat 8 k)) := by
  induction n with
  | zero => exact ⟨s.ppu.oam, rfl, hs, fun k hk => absurd hk (Nat.not_lt_zero k)⟩
  | succ n ih =>
    obtain ⟨oam, hstate, hwf, hbytes⟩ := ih (by omega)
    rw [dmaCopied_succ hd, hstate]
    refine ⟨_, rfl, Memory.wf_write (Nat.zero_le n) hn hwf _, fun k hk => (Memory.read_write hwf n k _).trans ?_⟩
    by_cases hkn : k = n
    · rw [if_pos hkn, hkn]
    · rw [if_neg hkn, hbytes k (by omega)]

/-- Settles O37: the pages that are read without effect, from O38. -/
theorem dmaCopiesOnePage : Obligations.DmaCopiesOnePage := by
  intro d s hg hd hs u n
  obtain ⟨hactive, hidle, hdummy, hindex, hclock, hppu, hjoypad, hrest⟩ := dmaReadsAnyPageThroughTheBus d s hg
  obtain ⟨oam, hstate, -, hbytes⟩ := dmaCopied_page hd (s := u) hs (Nat.le_refl 256)
  have hcopied : (dmaTicks n u).ppu = { u.ppu with oam := oam } := hppu.trans (congrArg State.ppu hstate)
  have hjoypad' : (dmaTicks n u).joypadReads = (u.setPpu { u.ppu with oam := oam }).joypadReads :=
    hjoypad.trans (congrArg State.joypadReads hstate)
  obtain ⟨hcpu, hram, hfatal, hfixed, htrace⟩ := hrest
  refine ⟨hactive, hidle, hdummy, hindex, hclock, fun k hk => ?_, ?_, hcpu, hram, hfatal, hfixed, htrace, hjoypad'⟩
  · rw [hcopied]
    exact (hbytes k hk).trans (byteAt_congr (s := s) (t := u) rfl rfl (mkAddr_page hd _))
  · rw [hcopied]
    rfl

end Sys2Proof.Machine
end

section
/-! PROOF. What the meaning of an instruction keeps (40_addressing.md R139): a property that its bus accesses, its pushes,
the fatal condition and its changes of the CPU keep is kept by every instruction. -/

namespace Sys2Proof.Machine

/-- The status bits 4 and 5 of a CPU after an instruction's part: as they were, or as PLP and RTI force them
(42_transfer_stack.md R160). -/
def StatusFollows (c d : Cpu) : Prop :=
  (d.flag .b = c.flag .b ∧ d.flag .u = c.flag .u) ∨ (d.flag .b = false ∧ d.flag .u = true)

theorem statusFollows_of_sameFlags {fs : List Flag} {c d : Cpu} (h : SameFlagsBut fs c d) (hb : Flag.b ∉ fs)
    (hu : Flag.u ∉ fs) : StatusFollows c d := .inl ⟨h .b hb, h .u hu⟩

theorem statusFollows_rfl {c d : Cpu} (h : d.p = c.p) : StatusFollows c d :=
  .inl ⟨congrArg (getFlag .b) h, congrArg (getFlag .u) h⟩

theorem statusFollows_setZN {c d : Cpu} (v : Byte) (h : d.p = c.p) : StatusFollows c (d.setZN v) :=
  .inl ⟨(sameFlagsBut_setZN v d .b (by decide)).trans (congrArg (getFlag .b) h),
    (sameFlagsBut_setZN v d .u (by decide)).trans (congrArg (getFlag .u) h)⟩

theorem statusFollows_pulled {c d : Cpu} {v : Byte} (h : d.p = pulledStatus v) : StatusFollows c d := by
  refine .inr ⟨?_, ?_⟩ <;> (rw [Cpu.flag, h, getFlag_pulledStatus]; rfl)

/-- A property of states that the parts of an instruction keep. Only an idle DMA unit lets an instruction write. -/
structure KeptByExec (P : State → Prop) : Prop where
  read : ∀ {s : State} (a : Addr), P s → P (memRead a s).2
  write : ∀ {s t : State} {a : Addr} {v : Byte}, P s → s.dma.active = false → memWrite a v s = some t → P t
  push : ∀ {s : State} (v : Byte), P s → P (push v s)
  fatal : ∀ {s : State} (a : Addr) (v : Byte), P s → P (raiseFatal a v s)
  cpu : ∀ {s : State} {c : Cpu}, P s → StatusFollows s.cpu c → P (s.setCpu c)

/-- Every next state of a result has a property. -/
def Leaves (P : State → Prop) (r : Result) : Prop := ∀ t, r = .next t → P t

theorem leaves_next {P : State → Prop} {s : State} (h : P s) : Leaves P (.next s) := by
  rintro _ ⟨⟩
  exact h

/-- A read operation writes at most the flags N, V, Z and C. -/
theorem sameFlagsBut_readEffect {op : Operation} {f : Byte → Cpu → Cpu} (hf : readEffect op = some f) (m : Byte)
    (c : Cpu) : SameFlagsBut [.c, .z, .v, .n] c (f m c) := by
  intro g hg
  simp only [List.mem_cons, List.not_mem_nil, or_false, not_or] at hg
  obtain ⟨hc, hz, hv, hn⟩ := hg
  cases op <;> cases hf <;>
    simp [Cpu.lda, Cpu.ldx, Cpu.ldy, Cpu.and, Cpu.ora, Cpu.eor, Cpu.bitTest, Cpu.adc, Cpu.sbc, Cpu.cmp, Cpu.cpx,
      Cpu.cpy, Cpu.compare, Cpu.flag_setZN, Cpu.flag_setFlag, hc, hz, hv, hn]

namespace KeptByExec

variable {P : State → Prop} (hP : KeptByExec P) {s : State}
include hP

/-- A change of the CPU that leaves `P` alone. -/
theorem setCpu {c : Cpu} (h : P s) (hc : c.p = s.cpu.p) : P (s.setCpu c) := hP.cpu h (statusFollows_rfl hc)

theorem charge (n : Nat) (h : P s) : P (s.charge n) := hP.setCpu h rfl

theorem operandByte (r : Resolution) (h : P s) : P (Machine.operandByte r s).2 := by
  unfold Machine.operandByte
  split
  · exact h
  · exact h
  · exact hP.read _ h

/-- A change of registers and flags with its cost. -/
theorem registerInstr {f : Cpu → Cpu} (hf : StatusFollows s.cpu (f s.cpu)) (base : Nat) (h : P s) :
    Leaves P (Machine.registerInstr base f s) := leaves_next (hP.charge base (hP.cpu h hf))

theorem branchTo (condition : Bool) (base : Nat) (target : Addr) (h : P s) :
    Leaves P (Machine.branchTo condition base target s) := by
  rw [branchTo_next]
  cases condition
  · exact leaves_next (hP.charge _ h)
  · exact leaves_next (hP.charge _ (hP.setCpu h rfl))

/-- A write, then what follows it; or the fatal condition. -/
theorem writeThen (a : Addr) (v : Byte) {rest : State → State} (h : P s) (hd : s.dma.active = false)
    (hr : ∀ t, P t → P (rest t)) : Leaves P (Machine.writeThen a v s rest) := by
  cases hw : memWrite a v s with
  | none =>
    rw [writeThen_fatal ((memWrite_eq_none_iff a v s).1 hw)]
    exact leaves_next (hP.fatal a v h)
  | some t =>
    rw [writeThen_some hw]
    exact leaves_next (hr t (hP.write h hd hw))

theorem writeBack (r : Resolution) (v : Byte) {rest : State → State} (h : P s) (hd : s.dma.active = false)
    (hr : ∀ t, P t → P (rest t)) : Leaves P (Machine.writeBack r v s rest) := by
  unfold Machine.writeBack
  split
  · exact leaves_next (hr _ (hP.setCpu h rfl))
  all_goals exact hP.writeThen _ _ h hd hr

theorem pushAddr (w : Addr) (h : P s) : P (Machine.pushAddr w s) := hP.push _ (hP.push _ h)

/-- An interrupt through a cartridge vector pushes three bytes and sets I. -/
theorem enterInterrupt {vector : Addr} (hv : 0x4020 ≤ vector) (hv' : 0x4020 ≤ vector + 1) (ret : Addr) (status : Byte)
    (h : P s) : P (Machine.enterInterrupt vector ret status s) := by
  rw [enterInterrupt_eq hv hv']
  exact hP.cpu (hP.push status (hP.push _ (hP.push _ h)))
    (statusFollows_of_sameFlags (sameFlagsBut_setFlag .i true _) (by decide) (by decide))

theorem operate_read {op : Operation} {f : Byte → Cpu → Cpu} (hf : readEffect op = some f) (r : Resolution) (base : Nat)
    (h : P s) : Leaves P (operate op r base s) := by
  rw [Machine.operate_read hf]
  exact leaves_next (hP.charge base (hP.cpu (hP.operandByte r h)
    (statusFollows_of_sameFlags (sameFlagsBut_readEffect hf _ _) (by decide) (by decide))))

theorem operate_modify {op : Operation} {f : (Byte → Cpu → Cpu) × (Byte → Cpu → Byte)} (hf : modifyEffect op = some f)
    (r : Resolution) (base : Nat) (h : P s) (hd : s.dma.active = false) : Leaves P (operate op r base s) := by
  have hbefore : StatusFollows (Machine.operandByte r s).2.cpu
      (f.1 (Machine.operandByte r s).1 (Machine.operandByte r s).2.cpu) := by
    rw [(modifyEffect_spec hf _ _).2]
    exact statusFollows_of_sameFlags (sameFlagsBut_setFlag .c _ _) (by decide) (by decide)
  have hidle : (Machine.operandByte r s).2.dma.active = false := by
    unfold Machine.operandByte
    split
    · exact hd
    · exact hd
    · rwa [memRead_dma]
  rw [Machine.operate_modify hf, modifyAt]
  exact hP.writeBack r _ (hP.cpu (hP.operandByte r h) hbefore) hidle fun t ht =>
    hP.charge base (hP.cpu ht (statusFollows_of_sameFlags (sameFlagsBut_setZN _ _) (by decide) (by decide)))

/-- An operation on any operand keeps the property. -/
theorem operate (op : Operation) (r : Resolution) (base : Nat) (h : P s) (hd : s.dma.active = false) :
    Leaves P (Machine.operate op r base s) := by
  have flag : ∀ (f : Flag) (v : Bool), f ≠ .b → f ≠ .u → StatusFollows s.cpu (s.cpu.setFlag f v) := fun f v hb hu =>
    statusFollows_of_sameFlags (sameFlagsBut_setFlag f v s.cpu) (by simp [hb.symm]) (by simp [hu.symm])
  cases op
  case lda | ldx | ldy | and | ora | eor | bit | adc | sbc | cmp | cpx | cpy => exact hP.operate_read rfl r base h
  case sta | stx | sty => exact hP.writeBack r _ h hd fun t => hP.charge base
  case inc | dec | asl | lsr | rol | ror => exact hP.operate_modify rfl r base h hd
  case bcc | bcs | beq | bne | bmi | bpl | bvc | bvs => exact hP.branchTo _ base r.ea h
  case tax | tay | txa | tya | tsx | inx | iny | dex | dey =>
    refine hP.registerInstr ?_ base h
    exact statusFollows_setZN _ rfl
  case txs => exact hP.registerInstr (statusFollows_rfl rfl) base h
  case clc | sec | cli | sei | cld | sed | clv =>
    refine hP.registerInstr ?_ base h
    exact flag _ _ (by decide) (by decide)
  case pha | php => exact leaves_next (hP.charge base (hP.push _ h))
  case pla =>
    rw [Machine.operate, performPla_eq]
    exact leaves_next (hP.charge base (hP.cpu h (statusFollows_setZN _ rfl)))
  case plp => exact leaves_next (hP.charge base (hP.cpu (hP.setCpu h rfl) (statusFollows_pulled rfl)))
  case jmp => exact leaves_next (hP.charge base (hP.setCpu h rfl))
  case jsr => exact leaves_next (hP.charge base (hP.setCpu (hP.pushAddr _ h) rfl))
  case rts => exact leaves_next (hP.charge base (hP.setCpu (hP.setCpu (hP.setCpu h rfl) rfl) rfl))
  case brk => exact leaves_next (hP.charge base (hP.enterInterrupt (by decide) (by decide) _ _ h))
  case rti =>
    rw [Machine.operate, performRti, returnFromInterrupt_eq]
    exact leaves_next (hP.charge base (hP.cpu h (statusFollows_pulled rfl)))
  case nop | und => exact leaves_next (hP.charge base h)

theorem fetchByte (h : P s) : P (Machine.fetchByte s).2 := hP.setCpu (hP.read _ h) rfl

theorem resolveMode (mode : Mode) (h : P s) : P (Machine.resolveMode mode s).2 :=
  resolveMode_keeps (fun a _ h => hP.read a h) (fun _ _ h => hP.setCpu h rfl) mode h

/-- Every instruction keeps the property, by its operand. -/
theorem exec (i : Instr) (h : P s) (hd : s.dma.active = false) : Leaves P (Machine.exec i s) := by
  by_cases hu : i.operation = .und
  · obtain ⟨op, rfl⟩ := eq_und_of_operation hu
    obtain ⟨-, -, -, hdma, -⟩ := resolveMode_frame s.fixed.params.undefOp.mode s
    exact hP.operate _ _ _ (hP.resolveMode _ h) (hdma ▸ hd)
  have resolved : ∀ r, resolvedOperand i.operand s = some r → Leaves P (Machine.exec i s) := fun r hr => by
    rw [exec_eq_operate hu hr]
    exact hP.operate _ _ _ h hd
  cases hi : i.operand with
  | imp => exact resolved _ (by rw [hi]; rfl)
  | rel b1 => exact resolved _ (by rw [hi]; rfl)
  | ind ptr =>
    rw [eq_jmpInd_of_ind hi]
    exact leaves_next (hP.charge _ (hP.setCpu (hP.read _ (hP.read _ h)) rfl))
  | src q =>
    cases q with
    | imm b =>
      obtain ⟨f, hf⟩ := readEffect_of_imm hi
      rw [exec_read_eq hf hi]
      exact leaves_next (hP.charge _ (hP.cpu h
        (statusFollows_of_sameFlags (sameFlagsBut_readEffect hf _ _) (by decide) (by decide))))
    | acc => exact resolved _ (by rw [hi]; rfl)
    | mem m => exact resolved _ (by rw [hi]; rfl)

/-- So does executing the instruction at `pc`. -/
theorem executeInstruction (h : P s) (hd : s.dma.active = false) : Leaves P (Machine.executeInstruction s) := by
  obtain ⟨-, -, -, hdma, -⟩ := fetchBytes_frame (fetchInstr s).1.length s
  rw [← fetchInstr_state] at hdma
  exact hP.exec _ (fetchInstr_keeps (fun _ h => hP.fetchByte h) h) (hdma ▸ hd)

/-- The CPU's share of a step keeps the property if a DMA step does. -/
theorem cpuStage (hdma : ∀ s, P s → s.dma.active = true → P (dmaStep s)) (h : P s) : Leaves P (Machine.cpuStage s) := by
  by_cases hg : s.g % 3 = 0
  · rw [cpuStage_cpuTick hg]
    cases hd : s.dma.active with
    | true =>
      rw [cpuTick_dma hd]
      exact leaves_next (hdma s h hd)
    | false =>
      by_cases hc : s.cpu.cyc ≤ 1
      · rw [cpuTick_execute hd hc]
        exact hP.executeInstruction (hP.charge 0 h) hd
      · rw [cpuTick_count hd (by omega)]
        exact leaves_next (hP.charge _ h)
  · rw [cpuStage_idle hg]
    exact leaves_next h

end KeptByExec

end Sys2Proof.Machine
end

section
/-! PROOF. What every step keeps (52_clock_dma.md R340): the clock and the position move by one (51_ppu_rendering.md R326),
and the invariant of the machine's state stands. The parts of a step are the PPU's, the CPU's and the audio unit's share. -/

namespace Sys2Proof.Machine

/-! What register accesses leave of the PPU -/

/-- A register read writes the status, the toggle, the data buffer and `v` (50_ppu_registers.md R257, R268). -/
theorem ppuRegRead_frame (fixed : Fixed) (n : BitVec 3) (p : Ppu) :
    let q := (ppuRegRead fixed n p).2
    q = { p with status := q.status, w := q.w, dataBuffer := q.dataBuffer, v := q.v } ∧
      (q.status = p.status ∨ q.status = p.status &&& 0x7F) := by
  unfold ppuRegRead
  split
  · exact ⟨rfl, .inr rfl⟩
  all_goals exact ⟨rfl, .inl rfl⟩

theorem ppuWrite_frame (fixed : Fixed) (a : Addr) (v : Byte) (p : Ppu) :
    ppuWrite fixed a v p = { p with nt := (ppuWrite fixed a v p).nt, pal := (ppuWrite fixed a v p).pal } := by
  unfold ppuWrite
  dsimp only
  split_ifs <;> rfl

/-- A register write writes neither the status, the sprites nor the position. -/
theorem ppuRegWrite_frame (fixed : Fixed) (n : BitVec 3) (d : Byte) (p : Ppu) :
    let q := ppuRegWrite fixed n d p
    q.status = p.status ∧ q.slots = p.slots ∧ q.spriteCount = p.spriteCount ∧ q.scanline = p.scanline ∧
      q.cycle = p.cycle := by
  unfold ppuRegWrite
  split
  case h_5 =>
    unfold scrollWrite
    split <;> exact ⟨rfl, rfl, rfl, rfl, rfl⟩
  case h_6 =>
    unfold addrWrite
    split <;> exact ⟨rfl, rfl, rfl, rfl, rfl⟩
  case h_7 =>
    rw [dataWrite, ppuWrite_frame]
    exact ⟨rfl, rfl, rfl, rfl, rfl⟩
  all_goals exact ⟨rfl, rfl, rfl, rfl, rfl⟩

/-- A bus read reads at most one PPU register. -/
theorem memRead_ppu_cases (a : Addr) (s : State) :
    (memRead a s).2.ppu = s.ppu ∨ ∃ n, (memRead a s).2.ppu = (ppuRegRead s.fixed n s.ppu).2 := by
  unfold memRead
  split
  case h_2 n _ => exact .inr ⟨n, rfl⟩
  all_goals exact .inl rfl

/-- A bus write writes at most one PPU register, or starts a DMA transfer (52_clock_dma.md R347). -/
theorem memWrite_ppu_cases {a : Addr} {v : Byte} {s t : State} (h : memWrite a v s = some t) :
    (t.ppu = s.ppu ∧ t.dma = s.dma) ∨ (∃ n, t.ppu = ppuRegWrite s.fixed n v s.ppu ∧ t.dma = s.dma) ∨
      (t.ppu = { s.ppu with oamAddr := 0 } ∧ t.dma.active = true) := by
  unfold memWrite at h
  split at h
  case h_2 n _ =>
    cases h
    exact .inr (.inl ⟨n, rfl, rfl⟩)
  case h_3 =>
    cases h
    exact .inr (.inr ⟨rfl, rfl⟩)
  case h_8 => cases h
  all_goals
    cases h
    exact .inl ⟨rfl, rfl⟩

/-! The clock and the position -/

/-- Two states at the same place of the same cartridge's frame. -/
structure SamePlace (s t : State) : Prop where
  fixed : t.fixed = s.fixed
  g : t.g = s.g
  scanline : t.ppu.scanline = s.ppu.scanline
  cycle : t.ppu.cycle = s.ppu.cycle

theorem SamePlace.refl (s : State) : SamePlace s s := ⟨rfl, rfl, rfl, rfl⟩

theorem SamePlace.setPpu {s t : State} (h : SamePlace s t) {p : Ppu} (hl : p.scanline = t.ppu.scanline)
    (hc : p.cycle = t.ppu.cycle) : SamePlace s (t.setPpu p) :=
  { h with scanline := hl.trans h.scanline, cycle := hc.trans h.cycle }

theorem samePlace_memRead {s t : State} (a : Addr) (h : SamePlace s t) : SamePlace s (memRead a t).2 := by
  have hplace : (memRead a t).2.ppu.scanline = t.ppu.scanline ∧ (memRead a t).2.ppu.cycle = t.ppu.cycle := by
    rcases memRead_ppu_cases a t with hp | ⟨n, hp⟩
    · rw [hp]
      exact ⟨rfl, rfl⟩
    · rw [hp, (ppuRegRead_frame _ _ _).1]
      exact ⟨rfl, rfl⟩
  exact ⟨(memRead_fixed a t).trans h.fixed, (memRead_g a t).trans h.g, hplace.1.trans h.scanline, hplace.2.trans h.cycle⟩

theorem samePlace_memWrite {s t u : State} {a : Addr} {v : Byte} (h : SamePlace s t) (hw : memWrite a v t = some u) :
    SamePlace s u := by
  obtain ⟨-, -, hg, hfixed, -⟩ := memWrite_frame hw
  have hplace : u.ppu.scanline = t.ppu.scanline ∧ u.ppu.cycle = t.ppu.cycle := by
    rcases memWrite_ppu_cases hw with ⟨hp, -⟩ | ⟨n, hp, -⟩ | ⟨hp, -⟩
    · rw [hp]
      exact ⟨rfl, rfl⟩
    · obtain ⟨-, -, -, hline, hcycle⟩ := ppuRegWrite_frame t.fixed n v t.ppu
      rw [hp]
      exact ⟨hline, hcycle⟩
    · rw [hp]
      exact ⟨rfl, rfl⟩
  exact ⟨hfixed.trans h.fixed, hg.trans h.g, hplace.1.trans h.scanline, hplace.2.trans h.cycle⟩

theorem keptByExec_samePlace (s : State) : KeptByExec (SamePlace s) where
  read := samePlace_memRead
  write h _ hw := samePlace_memWrite h hw
  push _ h := { h with }
  fatal _ _ h := { h with }
  cpu h _ := { h with }

theorem samePlace_dmaStep {s t : State} (h : SamePlace s t) : SamePlace s (dmaStep t) := by
  unfold dmaStep
  split_ifs
  · exact { h with }
  · exact h
  · exact { h with }
  · exact { samePlace_memRead (dmaAddr t.dma) h with }

/-- Settles O13: the PPU's share moves the position and counts the tick, the other shares leave both. -/
theorem stepAdvancesClockAndPosition : Obligations.StepAdvancesClockAndPosition := by
  intro s t hfirst hlast hcycle hstep
  have hlegal : s.ppu.LegalPosition := ⟨hfirst, hlast, hcycle⟩
  obtain ⟨-, u, hu, rfl⟩ := step_cases hstep
  have hplace : SamePlace (ppuStage s) u :=
    (keptByExec_samePlace (ppuStage s)).cpuStage (fun _ h _ => samePlace_dmaStep h) (SamePlace.refl _) u hu
  obtain ⟨-, -, -, hppu, -, hg, hfixed, -⟩ := audioStage_frame u
  have hstage := ppuStage_eq s
  have hposition : (ppuTick s).ppu.position = (s.ppu.position + 1) % 89342 := ppuTicks_position 1 hlegal
  obtain ⟨hlegal', -⟩ := ppuTick_frameClock hlegal
  have hline : u.ppu.scanline = (ppuTick s).ppu.scanline := by rw [hplace.scanline, hstage]; rfl
  have hcyc : u.ppu.cycle = (ppuTick s).ppu.cycle := by rw [hplace.cycle, hstage]; rfl
  refine ⟨?_, ?_, ?_, ?_⟩
  · rw [hfixed, hplace.fixed, hstage]
    exact (ppuTick_frame s).1
  · rw [hg, hplace.g, hstage]
    rfl
  · rw [hppu, Ppu.position, hline, hcyc]
    exact hposition
  · rw [hppu, hline, hcyc]
    exact ⟨hlegal'.first, hlegal'.last, hlegal'.cycle⟩

end Sys2Proof.Machine
end

section
/-! PROOF. The invariant of the machine's state: but for the countdown it is kept by every part of a step, and the
countdown is at least 1 after each of them (70_reset_and_hazards.md R424). -/

namespace Sys2Proof.Machine

/-- The PPU's part of the invariant outside its memories (10_state.md R36, R39, R40, 50_ppu_registers.md R256). -/
structure Ppu.Shape (p : Ppu) : Prop where
  slots : p.slots.length = 8
  spriteCount : p.spriteCount ≤ 8
  position : p.LegalPosition
  status : p.status &&& 0x1F = 0

/-- The invariant without the countdown. -/
structure State.Sound (s : State) : Prop where
  status : s.cpu.flag .b = false ∧ s.cpu.flag .u = true
  memories : s.MemoriesWf
  shape : s.ppu.Shape
  dmaOamAddr : s.dma.active = true → s.ppu.oamAddr = 0
  dmaIdle : s.dma.active = false → s.dma.dummy = true ∧ s.dma.index = 0
  undefCycles : 1 ≤ s.fixed.params.undefOp.cycles

theorem inv_iff (s : State) : Inv s ↔ s.Sound ∧ (s.Running → 1 ≤ s.cpu.cyc) := by
  constructor
  · intro h
    exact ⟨{
      status := ⟨h.statusBit4, h.statusBit5⟩
      memories := ⟨h.ram, ⟨h.oam, h.secOam, h.nt, h.pal⟩, h.program, h.tiles⟩
      shape := ⟨h.slots, h.spriteCount, ⟨h.scanline.1, h.scanline.2, h.cycle⟩, h.ppuStatus⟩
      dmaOamAddr := h.dmaOamAddr
      dmaIdle := h.dmaIdle
      undefCycles := h.undefCycles }, h.cyc⟩
  · rintro ⟨⟨⟨hb, hu⟩, ⟨hram, hppu, hprogram, htiles⟩, hshape, hoam, hidle, hundef⟩, hcyc⟩
    exact {
      statusBit5 := hu
      statusBit4 := hb
      ram := hram
      oam := hppu.oam
      secOam := hppu.secOam
      nt := hppu.nt
      pal := hppu.pal
      program := hprogram
      tiles := htiles
      slots := hshape.slots
      spriteCount := hshape.spriteCount
      scanline := ⟨hshape.position.first, hshape.position.last⟩
      cycle := hshape.position.cycle
      ppuStatus := hshape.status
      dmaOamAddr := hoam
      dmaIdle := hidle
      undefCycles := hundef
      cyc := hcyc }

/-! The PPU's shape -/

/-- The low bits of the status stand when higher ones change. -/
theorem lowBits_eq_zero_iff (b : Byte) : b &&& 0x1F = 0 ↔ ∀ i < 5, b.getLsbD i = false := by
  constructor
  · intro h i hi
    have hbit := congrArg (fun v : Byte => v.getLsbD i) h
    interval_cases i <;> simpa using hbit
  · intro h
    apply BitVec.eq_of_getLsbD_eq
    intro i hi
    rw [BitVec.getLsbD_and]
    by_cases hlow : i < 5
    · rw [h i hlow]
      exact (Bool.false_and _).trans BitVec.getLsbD_zero.symm
    · interval_cases i <;> simp

theorem Ppu.Shape.regRead {p : Ppu} (h : p.Shape) (fixed : Fixed) (n : BitVec 3) : (ppuRegRead fixed n p).2.Shape := by
  obtain ⟨hframe, hstatus⟩ := ppuRegRead_frame fixed n p
  have hlow : (ppuRegRead fixed n p).2.status &&& 0x1F = 0 := by
    rcases hstatus with hs | hs
    · rw [hs, h.status]
    · rw [hs, BitVec.and_assoc]
      exact h.status
  rw [hframe]
  exact ⟨h.slots, h.spriteCount, ⟨h.position.first, h.position.last, h.position.cycle⟩, hlow⟩

theorem Ppu.Shape.regWrite {p : Ppu} (h : p.Shape) (fixed : Fixed) (n : BitVec 3) (d : Byte) :
    (ppuRegWrite fixed n d p).Shape := by
  obtain ⟨hstatus, hslots, hcount, hline, hcycle⟩ := ppuRegWrite_frame fixed n d p
  exact ⟨hslots ▸ h.slots, hcount ▸ h.spriteCount, ⟨hline ▸ h.position.first, hline ▸ h.position.last,
    hcycle ▸ h.position.cycle⟩, hstatus ▸ h.status⟩

/-- The slots and their count after a tick: stepped, refilled, cleared or held. -/
theorem ppuTick_slots {s : State} (h : s.ppu.Shape) :
    (ppuTick s).ppu.slots.length = 8 ∧ (ppuTick s).ppu.spriteCount ≤ 8 := by
  by_cases hc : s.ppu.atClear
  · obtain ⟨-, hclear, -⟩ := statusEventsAtTheirPositions s
    obtain ⟨-, hslots, hcount, -⟩ := hclear hc.1 hc.2 h.status
    rw [hslots, hcount]
    exact ⟨List.length_replicate, Nat.zero_le 8⟩
  by_cases ha : s.ppu.renderingEnabled = true ∧ s.ppu.visible
  · by_cases hlast : s.ppu.cycle = 255
    · obtain ⟨-, hcount, -, -, hslots⟩ := ppuTick_sprites_fetch ha.1 ha.2 hlast
      rw [hslots, hcount, (spriteEvaluate_count s.ppu).1]
      exact ⟨by rw [List.length_map, List.length_range], Nat.min_le_left _ _⟩
    · obtain ⟨hslots, -, -, hcount, -⟩ := ppuTick_sprites_step ha.1 ha.2 hlast
      rw [hslots, hcount, List.length_map]
      exact ⟨h.slots, h.spriteCount⟩
  · obtain ⟨-, -, hheld⟩ := ppuTick_sprites_idle ha
    obtain ⟨hslots, hcount, -⟩ := hheld hc
    rw [hslots, hcount]
    exact ⟨h.slots, h.spriteCount⟩

/-- The low status bits after a tick. -/
theorem ppuTick_status_low {s : State} (h : s.ppu.status &&& 0x1F = 0) : (ppuTick s).ppu.status &&& 0x1F = 0 := by
  by_cases hc : s.ppu.atClear
  · obtain ⟨-, hclear, -⟩ := statusEventsAtTheirPositions s
    rw [(hclear hc.1 hc.2 h).1]
    rfl
  rw [lowBits_eq_zero_iff] at h ⊢
  intro i hi
  by_cases hvis : s.ppu.visible
  · rw [ppuTick_statusBit_visible hvis, h i hi, decide_eq_false (by omega), decide_eq_false (by omega)]
    rfl
  · rw [ppuTick_statusBit_notVisible hvis hc (by omega), h i hi]

theorem ppuTick_shape {s : State} (h : s.ppu.Shape) : (ppuTick s).ppu.Shape := by
  obtain ⟨hslots, hcount⟩ := ppuTick_slots h
  exact ⟨hslots, hcount, (ppuTick_frameClock h.position).1, ppuTick_status_low h.status⟩

/-! The parts of a step -/

theorem State.Sound.memRead {s : State} (h : s.Sound) (a : Addr) : (Machine.memRead a s).2.Sound := by
  have hppu : (Machine.memRead a s).2.ppu.Shape ∧ (Machine.memRead a s).2.ppu.oamAddr = s.ppu.oamAddr := by
    rcases memRead_ppu_cases a s with hp | ⟨n, hp⟩
    · rw [hp]
      exact ⟨h.shape, rfl⟩
    · refine ⟨hp ▸ h.shape.regRead s.fixed n, ?_⟩
      rw [hp, (ppuRegRead_frame _ _ _).1]
  exact {
    status := by rw [memRead_cpu]; exact h.status
    memories := h.memories.memRead a
    shape := hppu.1
    dmaOamAddr := by rw [memRead_dma, hppu.2]; exact h.dmaOamAddr
    dmaIdle := by rw [memRead_dma]; exact h.dmaIdle
    undefCycles := by rw [memRead_fixed]; exact h.undefCycles }

theorem State.Sound.memWrite {s t : State} {a : Addr} {v : Byte} (h : s.Sound) (hd : s.dma.active = false)
    (hw : Machine.memWrite a v s = some t) : t.Sound := by
  obtain ⟨hcpu, -, -, hfixed, -⟩ := memWrite_frame hw
  have hidle : t.dma = s.dma → (t.dma.active = true → t.ppu.oamAddr = 0) ∧
      (t.dma.active = false → t.dma.dummy = true ∧ t.dma.index = 0) := fun hdma => by
    rw [hdma, hd]
    exact ⟨fun hactive => absurd hactive (by decide), fun _ => h.dmaIdle hd⟩
  have hppu : t.ppu.Shape ∧ (t.dma.active = true → t.ppu.oamAddr = 0) ∧
      (t.dma.active = false → t.dma.dummy = true ∧ t.dma.index = 0) := by
    rcases memWrite_ppu_cases hw with ⟨hp, hdma⟩ | ⟨n, hp, hdma⟩ | ⟨hp, hactive⟩
    · exact ⟨hp ▸ h.shape, hidle hdma⟩
    · exact ⟨hp ▸ h.shape.regWrite s.fixed n v, hidle hdma⟩
    · refine ⟨?_, fun _ => by rw [hp], fun hstopped => absurd (hactive.symm.trans hstopped) (by decide)⟩
      rw [hp]
      exact ⟨h.shape.slots, h.shape.spriteCount, ⟨h.shape.position.first, h.shape.position.last, h.shape.position.cycle⟩,
        h.shape.status⟩
  exact {
    status := by rw [hcpu]; exact h.status
    memories := h.memories.memWrite hw
    shape := hppu.1
    dmaOamAddr := hppu.2.1
    dmaIdle := hppu.2.2
    undefCycles := by rw [hfixed]; exact h.undefCycles }

theorem State.Sound.setCpu {s : State} {c : Cpu} (h : s.Sound) (hc : StatusFollows s.cpu c) : (s.setCpu c).Sound :=
  { h with
    status := by
      rcases hc with ⟨hb, hu⟩ | hforced
      · exact ⟨hb.trans h.status.1, hu.trans h.status.2⟩
      · exact hforced
    memories := { h.memories with } }

theorem keptByExec_sound : KeptByExec State.Sound where
  read a h := h.memRead a
  write h hd hw := h.memWrite hd hw
  push v h := { h with memories := h.memories.push v }
  fatal _ _ h := { h with memories := { h.memories with } }
  cpu h hc := h.setCpu hc

theorem State.Sound.dmaStep {s : State} (h : s.Sound) (hd : s.dma.active = true) : (Machine.dmaStep s).Sound := by
  have hmemories := h.memories.dmaStep
  unfold Machine.dmaStep at hmemories ⊢
  split_ifs at hmemories ⊢
  · exact { h with memories := hmemories, dmaIdle := fun hstopped => absurd (hd.symm.trans hstopped) (by decide) }
  · exact h
  · exact { h with
      memories := hmemories
      shape := ⟨h.shape.slots, h.shape.spriteCount,
        ⟨h.shape.position.first, h.shape.position.last, h.shape.position.cycle⟩, h.shape.status⟩
      dmaOamAddr := fun _ => h.dmaOamAddr hd
      dmaIdle := fun hstopped => by
        have hdone : decide (s.dma.index + 1 = 0) = true := by simpa [dmaWrite] using hstopped
        exact ⟨hdone, of_decide_eq_true hdone⟩ }
  · have hread := h.memRead (dmaAddr s.dma)
    exact { hread with memories := hmemories, dmaOamAddr := hread.dmaOamAddr, dmaIdle := hread.dmaIdle }

/-- The CPU's status bits 4 and 5 after the PPU's share: NMI sets I alone (60_exceptions.md R377). -/
theorem ppuTick_status (s : State) : StatusFollows s.cpu (ppuTick s).cpu := by
  obtain ⟨-, -, -, -, -, hcpu, -⟩ := ppuTick_frame s
  obtain ⟨hstatus, -⟩ := statusEvents_cpu s
  rw [hcpu, hstatus]
  split_ifs
  · rw [enterNmi_eq]
    exact statusFollows_of_sameFlags (sameFlagsBut_setFlag .i true s.cpu) (by decide) (by decide)
  · exact statusFollows_rfl rfl

theorem State.Sound.ppuTick {s : State} (h : s.Sound) : (Machine.ppuTick s).Sound := by
  obtain ⟨hfixed, -, hdma, -⟩ := ppuTick_frame s
  have hoam : (Machine.ppuTick s).ppu.oamAddr = 0 ∨ (Machine.ppuTick s).ppu.oamAddr = s.ppu.oamAddr := by
    rw [ppuTick_oamAddr]
    split
    · exact .inl rfl
    · exact .inr rfl
  exact {
    status := (h.setCpu (ppuTick_status s)).status
    memories := h.memories.ppuTick
    shape := ppuTick_shape h.shape
    dmaOamAddr := fun hactive => hoam.elim id fun hkept => hkept.trans (h.dmaOamAddr (hdma ▸ hactive))
    dmaIdle := hdma ▸ h.dmaIdle
    undefCycles := hfixed ▸ h.undefCycles }

theorem State.Sound.ppuStage {s : State} (h : s.Sound) : (Machine.ppuStage s).Sound :=
  { h.ppuTick with memories := { h.ppuTick.memories with } }

theorem State.Sound.audioStage {s : State} (h : s.Sound) : (Machine.audioStage s).Sound := by
  unfold Machine.audioStage
  split
  · exact { h with memories := { h.memories with } }
  · exact h

/-! The countdown -/

/-- An instruction that leaves the machine running costs at least one cycle (70_reset_and_hazards.md R422). -/
theorem exec_cyc_pos {i : Instr} {s t : State} (hundef : 1 ≤ s.fixed.params.undefOp.cycles) (h : exec i s = .next t)
    (ht : t.Running) : 1 ≤ t.cpu.cyc := by
  by_cases hu : i.operation = .und
  · obtain ⟨op, rfl⟩ := eq_und_of_operation hu
    rw [operate_cyc (op := s.fixed.params.undefOp.operation) h ht]
    omega
  · have hbase := patternCost_pos i.operation i.mode
    rw [exec_cyc hu h ht]
    omega

/-- The PPU's share lowers no countdown: NMI adds to it (60_exceptions.md R377). -/
theorem ppuTick_cyc (s : State) : s.cpu.cyc ≤ (ppuTick s).cpu.cyc := by
  obtain ⟨-, -, -, -, -, hcpu, -⟩ := ppuTick_frame s
  obtain ⟨hstatus, -⟩ := statusEvents_cpu s
  rw [hcpu, hstatus]
  split_ifs
  · rw [enterNmi_eq]
    exact Nat.le_add_right _ _
  · exact Nat.le_refl _

/-- The CPU's share never leaves the countdown at 0 (70_reset_and_hazards.md R424). -/
theorem cpuStage_cyc {s t : State} (hundef : 1 ≤ s.fixed.params.undefOp.cycles) (hcyc : 1 ≤ s.cpu.cyc)
    (h : cpuStage s = .next t) (ht : t.Running) : 1 ≤ t.cpu.cyc := by
  by_cases hg : s.g % 3 = 0
  · rw [cpuStage_cpuTick hg] at h
    cases hd : s.dma.active with
    | true =>
      rw [cpuTick_dma hd] at h
      cases h
      rwa [dmaStep_cpu]
    | false =>
      by_cases hc : s.cpu.cyc ≤ 1
      · obtain ⟨-, -, -, -, -, hfixed, -⟩ := fetchBytes_frame (fetchInstr (s.charge 0)).1.length (s.charge 0)
        rw [← fetchInstr_state] at hfixed
        rw [cpuTick_execute hd hc, executeInstruction] at h
        exact exec_cyc_pos (hfixed ▸ hundef) h ht
      · rw [cpuTick_count hd (by omega)] at h
        cases h
        exact Nat.le_sub_of_add_le (by omega)
  · rw [cpuStage_idle hg] at h
    cases h
    exact hcyc

/-- Settles O11: each share of the step keeps the invariant without the countdown, and none leaves the countdown at 0. -/
theorem stepKeepsTheInvariant : Obligations.StepKeepsTheInvariant := by
  intro s t hs hstep
  rw [inv_iff] at hs ⊢
  obtain ⟨hsound, hcyc⟩ := hs
  obtain ⟨hrunning, u, hu, rfl⟩ := step_cases hstep
  obtain ⟨hcpu, hfatal, -⟩ := audioStage_frame u
  have hstage := hsound.ppuStage
  have hu' : u.Sound := keptByExec_sound.cpuStage (fun _ h => h.dmaStep) hstage u hu
  refine ⟨hu'.audioStage, fun ht => ?_⟩
  rw [hcpu]
  have hstart : 1 ≤ (ppuStage s).cpu.cyc := (hcyc hrunning).trans (ppuTick_cyc s)
  exact cpuStage_cyc hstage.undefCycles hstart hu (hfatal.symm.trans ht)

end Sys2Proof.Machine
end

section
/-! PROOF. Undefined opcodes (30_encoding.md R110, 49_system.md R238; decisions D2, D3): the entry `UNDEF_OP` is `operate`
on what its mode resolves to, so each form of the operation is the same `operate` with another cost. -/

namespace Sys2Proof.Machine

/-! Costs of one `operate` -/

theorem costing_congr {s : State} {m n : Nat} (h : s.Running → m = n) : s.costing m = s.costing n := by
  unfold State.costing
  split
  next hs => rw [h hs]
  next => rfl

/-- A cost loaded over another. -/
theorem charge_costing {s : State} (hs : s.Running) (n m : Nat) : (s.charge n).costing m = s.charge m :=
  if_pos (show (s.charge n).fatal = none from hs)

/-- Two results of the same work with two costs. -/
def Recosts (p q : Result) (m : Nat) : Prop := ∃ t, p = .next t ∧ q = .next (t.costing m)

theorem recosts_charge {s : State} (hs : s.Running) (n m : Nat) : Recosts (.next (s.charge n)) (.next (s.charge m)) m :=
  ⟨_, rfl, by rw [charge_costing hs]⟩

/-- Of two results of the same charged work the second has the first's cost less its base, plus the other base. -/
theorem rebase_charge {p q : Result} {s : State} {n m : Nat} (hp : p = .next (s.charge n)) (hq : q = .next (s.charge m))
    (hs : s.Running) : ∃ t, p = .next t ∧ q = .next (t.costing (t.cpu.cyc - n + m)) := by
  have hcost : (s.charge n).cpu.cyc - n + m = m := by rw [show (s.charge n).cpu.cyc = n from rfl, Nat.sub_self, Nat.zero_add]
  exact ⟨_, hp, by rw [hcost, charge_costing hs, hq]⟩

/-- Work that always ends in a charge has the cost that it is given. -/
theorem recosts_of_charge {p : Nat → Result} {s : State} (hp : ∀ n, p n = .next (s.charge n)) (hs : s.Running)
    (n m : Nat) : Recosts (p n) (p m) m := by
  rw [hp, hp]
  exact recosts_charge hs n m

theorem recosts_writeBack (r : Resolution) (v : Byte) {s : State} (hs : s.Running) (f : State → State)
    (hf : ∀ t, (f t).fatal = t.fatal) (n m : Nat) :
    Recosts (writeBack r v s fun t => (f t).charge n) (writeBack r v s fun t => (f t).charge m) m := by
  unfold writeBack
  cases r.tag with
  | acc => exact recosts_charge (s := f (s.mapCpu (·.setA v))) ((hf _).trans hs) n m
  | none => exact writeThen_charge hs f hf n m
  | mem => exact writeThen_charge hs f hf n m

theorem operandByte_running {r : Resolution} {s : State} (hs : s.Running) : (operandByte r s).2.Running := by
  unfold operandByte
  split
  · exact hs
  · exact hs
  · exact (memRead_fatal _ s).trans hs

theorem recosts_modify {op : Operation} {f : (Byte → Cpu → Cpu) × (Byte → Cpu → Byte)} (hf : modifyEffect op = some f)
    (r : Resolution) {s : State} (hs : s.Running) (n m : Nat) :
    Recosts (operate op r n s) (operate op r m s) m := by
  rw [operate_modify hf, operate_modify hf]
  exact recosts_writeBack r _ (s := (operandByte r s).2.mapCpu _) (operandByte_running hs)
    (fun t => t.mapCpu (·.setZN _)) (fun _ => rfl) n m

theorem recosts_read {op : Operation} {f : Byte → Cpu → Cpu} (hf : readEffect op = some f) (r : Resolution) {s : State}
    (hs : s.Running) (n m : Nat) : Recosts (operate op r n s) (operate op r m s) m := by
  rw [operate_read hf, operate_read hf]
  exact recosts_charge (s := (operandByte r s).2.mapCpu _) (operandByte_running hs) n m

/-- The cycles of a taken branch (47_jump_branch.md R209). -/
theorem takenCycles_eq (a b : Byte) : (1 + if a ≠ b then 1 else 0) = if a = b then 1 else 2 := by
  rw [ite_not]
  split <;> rfl

theorem recosts_branch {op : Operation} {f : Flag} {value : Bool} (hf : branchTest op = some (f, value))
    (r : Resolution) {s : State} (hs : s.Running) (n m : Nat) :
    Recosts (operate op r n s) (operate op r m s) (m + branchExtra op r.ea s.cpu) := by
  rw [operate_branch hf, operate_branch hf, branchTo_next, branchTo_next, branchExtra, hf]
  dsimp only
  by_cases htaken : s.cpu.flag f = value
  · rw [if_pos (beq_iff_eq.mpr htaken), if_pos (beq_iff_eq.mpr htaken), if_pos htaken]
    rw [takenCycles_eq]
    exact recosts_charge (s := s.setCpu (s.cpu.setPc r.ea)) hs _ _
  · rw [if_neg (mt beq_iff_eq.mp htaken), if_neg (mt beq_iff_eq.mp htaken), if_neg htaken]
    exact recosts_charge hs n m

/-- An operation on one operand with two costs does the same work (40_addressing.md R139). -/
theorem operate_recosts (op : Operation) (r : Resolution) {s : State} (hs : s.Running) (n m : Nat) :
    Recosts (operate op r n s) (operate op r m s) (m + branchExtra op r.ea s.cpu) := by
  cases op
  case lda | ldx | ldy | and | ora | eor | bit | adc | sbc | cmp | cpx | cpy => exact recosts_read rfl r hs n m
  case sta | stx | sty => exact recosts_writeBack r _ hs id (fun _ => rfl) n m
  case inc | dec | asl | lsr | rol | ror => exact recosts_modify rfl r hs n m
  case bcc | bcs | beq | bne | bmi | bpl | bvc | bvs => exact recosts_branch rfl r hs n m
  case brk =>
    have hfatal : (enterBrk s).fatal = s.fatal := by
      rw [enterBrk, enterInterrupt_ram (by decide) (by decide)]
      rfl
    exact recosts_of_charge (p := fun n => operate .brk r n s) (fun _ => rfl) (hfatal.trans hs) n m
  all_goals exact recosts_of_charge (p := fun n => operate _ r n s) (fun _ => rfl) (by exact hs) n m

/-! The row of the table with the entry's operation and mode -/

/-- The operand bytes of an instruction, as its encoding has them (30_encoding.md R101). -/
def operandBytes (o : Operand) : List Byte :=
  match o with
  | .imp | .src .acc => []
  | .src (.imm b) | .rel b => [b]
  | .src (.mem m) =>
    match m with
    | .zp b | .zpx b | .zpy b | .izx b | .izy b => [b]
    | .abs w | .abx w | .aby w => [loByte w, hiByte w]
  | .ind w => [loByte w, hiByte w]

theorem encode_tail (j : Instr) : (encode j).tail = operandBytes j.operand := by
  cases j <;> rfl

/-- Resolving a mode at `pc` is resolving the operand whose bytes stand there (40_addressing.md R120). -/
theorem resolveMode_of_bytes {o : Operand} {s : State} {r : Resolution}
    (hr : resolvedOperand o (fetchBytes (o.mode.length - 1) s).2 = some r)
    (hb : operandBytes o = (fetchBytes (o.mode.length - 1) s).1) :
    resolveMode o.mode s = (r, (fetchBytes (o.mode.length - 1) s).2) := by
  cases o with
  | imp => cases hr; rfl
  | ind w => cases hr
  | rel b =>
    obtain ⟨-, hrel⟩ := resolveMode_one hb.symm
    rw [resolvedOperand, branchTarget_eq_branchDestination] at hr
    cases hr
    exact hrel
  | src q =>
    cases q with
    | imm b => cases hr
    | acc => cases hr; rfl
    | mem m =>
      cases hr
      cases m with
      | zp b => exact (resolveMode_one hb.symm).1 (.zp, .zp b) (by simp)
      | zpx b => exact (resolveMode_one hb.symm).1 (.zpx, .zpx b) (by simp)
      | zpy b => exact (resolveMode_one hb.symm).1 (.zpy, .zpy b) (by simp)
      | izx b => exact (resolveMode_one hb.symm).1 (.izx, .izx b) (by simp)
      | izy b => exact (resolveMode_one hb.symm).1 (.izy, .izy b) (by simp)
      | abs w => exact (resolveMode_two hb.symm).1 (.abs, .abs w) (by simp)
      | abx w => exact (resolveMode_two hb.symm).1 (.abx, .abx w) (by simp)
      | aby w => exact (resolveMode_two hb.symm).1 (.aby, .aby w) (by simp)

/-- The page-cross cycle of an operation on its resolved operand is that of the instruction. -/
theorem crossPenalty_eq_crossCost {i : Instr} {s : State} {r : Resolution}
    (hr : resolvedOperand i.operand s = some r) : crossPenalty i.operation r = crossCost i s := by
  unfold crossCost
  cases hi : i.operand with
  | imp => rw [hi] at hr; cases hr; rfl
  | rel b => rw [hi] at hr; cases hr; rfl
  | ind w => rw [hi] at hr; cases hr
  | src q =>
    cases q with
    | imm b => rw [hi] at hr; cases hr
    | acc => rw [hi] at hr; cases hr; rfl
    | mem m => rw [hi] at hr; cases hr; rfl

/-- An undefined opcode operates on what its entry's mode resolves to. -/
theorem execUnd_eq (op : Byte) (s : State) :
    let e := s.fixed.params.undefOp
    exec (.und op) s = operate e.operation (resolveMode e.mode s).1
      (e.cycles + crossPenalty e.operation (resolveMode e.mode s).1) (resolveMode e.mode s).2 := rfl

/-- A row whose operand resolves with no bus effect: the entry does the row's work for its own cycles. -/
theorem execUnd_of_resolved {j : Instr} {s : State} {r : Resolution} (op : Byte) (hs : s.Running)
    (hop : j.operation = s.fixed.params.undefOp.operation) (hmode : j.mode = s.fixed.params.undefOp.mode)
    (hu : j.operation ≠ .und) (hb : operandBytes j.operand = (fetchBytes (j.length - 1) s).1)
    (hr : resolvedOperand j.operand (fetchBytes (j.length - 1) s).2 = some r) :
    ∃ t, exec j (fetchBytes (j.length - 1) s).2 = .next t ∧
      exec (.und op) s = .next (t.costing
        (t.cpu.cyc - patternCost j.operation j.mode + s.fixed.params.undefOp.cycles)) := by
  have hresolve : resolveMode j.mode s = (r, (fetchBytes (j.length - 1) s).2) := resolveMode_of_bytes hr hb
  obtain ⟨-, hfatal, -⟩ := fetchBytes_frame (j.length - 1) s
  have hrunning : (fetchBytes (j.length - 1) s).2.Running := hfatal.trans hs
  have hexec := exec_eq_operate hu hr
  obtain ⟨t, ht, hund⟩ := operate_recosts j.operation r hrunning
    (patternCost j.operation j.mode + crossCost j (fetchBytes (j.length - 1) s).2)
    (s.fixed.params.undefOp.cycles + crossCost j (fetchBytes (j.length - 1) s).2)
  refine ⟨t, hexec.trans ht, ?_⟩
  rw [execUnd_eq, ← hop, ← hmode, hresolve, crossPenalty_eq_crossCost hr, hund]
  refine congrArg _ (costing_congr fun hrun => ?_)
  rw [operate_cyc ht hrun]
  omega

/-- The fetch stage of an immediate operand reads the byte at `pc` as a fetch does (40_addressing.md R123). -/
theorem operandByte_imm (s : State) :
    operandByte (resolveMode .imm s).1 (resolveMode .imm s).2 = fetchByte s := by
  rw [fetchByte, memRead_cpu]
  exact memRead_setCpu s.cpu.pc (s.cpu.setPc (s.cpu.pc + 1)) s

theorem fetchByte_running {s : State} (hs : s.Running) : (fetchByte s).2.Running := (memRead_fatal _ s).trans hs

/-- A row with an immediate operand. -/
theorem execUnd_of_imm {j : Instr} {s : State} {b : Byte} (op : Byte) (hs : s.Running)
    (hop : j.operation = s.fixed.params.undefOp.operation) (hmode : j.mode = s.fixed.params.undefOp.mode)
    (hi : j.operand = .src (.imm b)) (hb : b = (fetchByte s).1) :
    ∃ t, exec j (fetchByte s).2 = .next t ∧
      exec (.und op) s = .next (t.costing
        (t.cpu.cyc - patternCost j.operation j.mode + s.fixed.params.undefOp.cycles)) := by
  obtain ⟨f, hf⟩ := readEffect_of_imm hi
  have himm : j.mode = .imm := by rw [Instr.mode, hi]; rfl
  have hcross : crossCost j (fetchByte s).2 = 0 := by rw [crossCost, hi]
  have hexec : exec j (fetchByte s).2 =
      .next (((fetchByte s).2.mapCpu (f b)).charge (patternCost j.operation j.mode)) := by
    rw [exec_read_eq hf hi, hcross]
    rfl
  have hund : exec (.und op) s =
      .next (((fetchByte s).2.mapCpu (f b)).charge s.fixed.params.undefOp.cycles) := by
    rw [execUnd_eq, ← hop, ← hmode, himm, operate_read hf, readAt, operandByte_imm, hb]
    rfl
  exact rebase_charge hexec hund (fetchByte_running hs)

/-- The row of the indirect jump. -/
theorem execUnd_of_ind {s : State} {w : Addr} (op : Byte) (hs : s.Running)
    (hop : .jmp = s.fixed.params.undefOp.operation) (hmode : .ind = s.fixed.params.undefOp.mode)
    (hb : [loByte w, hiByte w] = (fetchBytes 2 s).1) :
    ∃ t, exec (.jmpInd w) (fetchBytes 2 s).2 = .next t ∧
      exec (.und op) s = .next (t.costing
        (t.cpu.cyc - patternCost .jmp .ind + s.fixed.params.undefOp.cycles)) := by
  obtain ⟨-, hresolve⟩ := resolveMode_two hb.symm
  obtain ⟨-, hfatal, -⟩ := fetchBytes_frame 2 s
  have hrunning : (resolveIndirect w (fetchBytes 2 s).2).2.Running :=
    (memRead_fatal _ _).trans ((memRead_fatal _ _).trans (hfatal.trans hs))
  have hund : exec (.und op) s = performJmp (resolveIndirect w (fetchBytes 2 s).2).1 s.fixed.params.undefOp.cycles
      (resolveIndirect w (fetchBytes 2 s).2).2 := by
    rw [execUnd_eq, ← hop, ← hmode, hresolve]
    rfl
  exact rebase_charge (s := (resolveIndirect w (fetchBytes 2 s).2).2.mapCpu (·.setPc _)) rfl hund hrunning

/-- The row of the entry's operation and mode does the entry's work with its own base cost. -/
theorem execUnd_of_row {j : Instr} {s : State} (op : Byte) (hs : s.Running)
    (hop : j.operation = s.fixed.params.undefOp.operation) (hmode : j.mode = s.fixed.params.undefOp.mode)
    (hu : j.operation ≠ .und) (hb : (encode j).tail = (fetchBytes (j.length - 1) s).1) :
    ∃ t, exec j (fetchBytes (j.length - 1) s).2 = .next t ∧
      exec (.und op) s = .next (t.costing
        (t.cpu.cyc - patternCost j.operation j.mode + s.fixed.params.undefOp.cycles)) := by
  rw [encode_tail] at hb
  have resolved : ∀ r, resolvedOperand j.operand (fetchBytes (j.length - 1) s).2 = some r → _ := fun r hr =>
    execUnd_of_resolved op hs hop hmode hu hb hr
  cases hi : j.operand with
  | imp => exact resolved _ (by rw [hi]; rfl)
  | rel b => exact resolved _ (by rw [hi]; rfl)
  | ind w =>
    obtain rfl := eq_jmpInd_of_ind hi
    exact execUnd_of_ind op hs hop hmode hb
  | src q =>
    cases q with
    | acc => exact resolved _ (by rw [hi]; rfl)
    | mem m => exact resolved _ (by rw [hi]; rfl)
    | imm b =>
      have hlength : j.length - 1 = 1 := by rw [Instr.length, Instr.mode, hi]; rfl
      rw [hi, hlength] at hb
      rw [hlength]
      exact execUnd_of_imm op hs hop hmode hi (List.singleton_inj.mp hb)

/-! The entry's operation on any operand -/

theorem crossPenalty_of_operation {op : Operation} (h : pageCrossCosts op = false) (r : Resolution) :
    crossPenalty op r = 0 := by
  rw [crossPenalty, h, Bool.and_false]
  rfl

theorem crossPenalty_eq_ite (op : Operation) (r : Resolution) :
    crossPenalty op r = if r.crossed = true ∧ pageCrossCosts op = true then 1 else 0 := by
  simp only [crossPenalty, Bool.and_eq_true]

/-- Only the implied and the accumulator mode resolve to no memory, and they read nothing (40_addressing.md R121, R122). -/
theorem resolveMode_of_tag {mode : Mode} {s : State} (h : (resolveMode mode s).1.tag ≠ .mem) :
    (resolveMode mode s).1.ea = 0 ∧ (resolveMode mode s).1.crossed = false ∧ (resolveMode mode s).2 = s := by
  cases mode
  case imp | acc => exact ⟨rfl, rfl, rfl⟩
  all_goals exact absurd rfl h

theorem crossPenalty_of_tag {mode : Mode} {s : State} (h : (resolveMode mode s).1.tag ≠ .mem) (op : Operation) :
    crossPenalty op (resolveMode mode s).1 = 0 := by
  obtain ⟨-, hcrossed, -⟩ := resolveMode_of_tag h
  rw [crossPenalty, hcrossed]
  rfl

theorem operandByte_acc {r : Resolution} (h : r.tag = .acc) (s : State) : operandByte r s = (s.cpu.a, s) := by
  rw [operandByte, h]

theorem operandByte_of_tag {r : Resolution} (h : r.tag ≠ .mem) (s : State) : (operandByte r s).2 = s := by
  rw [operandByte]
  cases hr : r.tag with
  | none => rfl
  | acc => rfl
  | mem => exact absurd hr h

theorem writeBack_acc {r : Resolution} (h : r.tag = .acc) (v : Byte) (s : State) (rest : State → State) :
    writeBack r v s rest = .next (rest (s.mapCpu (·.setA v))) := by
  rw [writeBack, h]

theorem writeBack_of_not_acc {r : Resolution} (h : r.tag ≠ .acc) (v : Byte) (s : State) (rest : State → State) :
    writeBack r v s rest = writeThen r.ea v s rest := by
  rw [writeBack]
  cases hr : r.tag with
  | none => rfl
  | acc => exact absurd hr h
  | mem => rfl

theorem pageCrossCosts_of_imp {j : Instr} (h : j.mode = .imp) : pageCrossCosts j.operation = false := by
  have hrows : (j.mode == .imp && pageCrossCosts j.operation) = false := by cases j <;> rfl
  rwa [beq_iff_eq.mpr h, Bool.true_and] at hrows

theorem pageCrossCosts_of_branch {op : Operation} {f : Flag} {value : Bool} (h : branchTest op = some (f, value)) :
    pageCrossCosts op = false := by
  have hrows : ((branchTest op).isSome && pageCrossCosts op) = false := by cases op <;> rfl
  rwa [h, Option.isSome_some, Bool.true_and] at hrows

/-- A store with nothing resolved writes where one in memory does. -/
theorem operate_store_none {op : Operation} {s : State} (hv : (storeValue op s.cpu).isSome) {r : Resolution}
    (ht : r.tag = .none) (base : Nat) : operate op r base s = operate op { r with tag := .mem } base s := by
  obtain ⟨v, hv⟩ := Option.isSome_iff_exists.mp hv
  rw [operate_store hv, operate_store hv, storeAt, storeAt, writeBack_of_not_acc (by rw [ht]; decide),
    writeBack_of_not_acc (show OperandTag.mem ≠ .acc by decide)]

/-- An operation that uses its address alone does at any operand what its absolute form does there. -/
theorem operate_absolute {j : Instr} {s : State} {r : Resolution} (hs : s.Running)
    (hj : j.operand = .src (.mem (.abs r.ea)))
    (h : r.tag = .mem ∨ (r.tag = .none ∧ (storeValue j.operation s.cpu).isSome) ∨ j.operation = .jmp ∨ j.operation = .jsr)
    (base : Nat) : ∃ t, exec j s = .next t ∧ operate j.operation r base s = .next (t.costing base) := by
  have hmem := operate_mem hs (r := { r with tag := .mem }) rfl rfl hj base
  rcases h with ht | ⟨ht, hv⟩ | hop | hop
  · exact operate_mem hs ht rfl hj base
  · rwa [operate_store_none hv ht]
  · rw [hop] at hmem ⊢
    exact hmem
  · rw [hop] at hmem ⊢
    exact hmem

/-- A read-modify-write of the accumulator, in any mode that resolves to it (40_addressing.md R122). -/
theorem operate_modify_acc {op : Operation} {r : Resolution} {s : State} {n : Nat} (ht : r.tag = .acc)
    (h : modifyResult op (s.cpu.flag .c) s.cpu.a.toNat = some n) (base : Nat) :
    ∃ t, operate op r base s = .next t ∧
      RegistersAre s t (BitVec.ofNat 8 n) s.cpu.x s.cpu.y s.cpu.sp s.cpu.pc base ∧
      t.cpu.flag .c = modifyCarry op (s.cpu.flag .c) s.cpu.a.toNat ∧ ZNOf (BitVec.ofNat 8 n) t.cpu ∧
      SameFlagsBut [.c, .z, .n] s.cpu t.cpu := by
  obtain ⟨f, hf, hresult, hbefore⟩ := modifyEffect_of_result h
  have hmap : s.mapCpu (f.1 s.cpu.a) = s.setCpu _ := congrArg (fun c => s.setCpu c) hbefore
  rw [operate_modify hf, modifyAt, operandByte_acc ht, writeBack_acc ht]
  dsimp only
  rw [hresult, hmap]
  exact ⟨_, rfl, ⟨⟨⟨rfl, rfl, rfl, rfl, rfl, rfl, rfl⟩, rfl⟩, rfl, rfl, rfl, rfl, rfl, rfl⟩,
    flag_c_modify _ _ s.cpu, znOf_setZN _ ((s.cpu.setFlag .c _).setA _), sameFlagsBut_modify _ _ s.cpu⟩

/-- A read-modify-write with no operand writes $0000 (log entry 7). -/
theorem operate_modify_none {op : Operation} {r : Resolution} {s : State} {n : Nat} (ht : r.tag = .none) (hea : r.ea = 0)
    (hwf : Memory.wf 0 2048 s.ram) (h : modifyResult op (s.cpu.flag .c) (operandByte r s).1.toNat = some n) (base : Nat) :
    ∃ t, operate op r base s = .next t ∧ SameOutsideCpuAndRam s t ∧ SameRegisters s.cpu t.cpu ∧ t.cpu.cyc = base ∧
      RamAfterWrite 0 (BitVec.ofNat 8 n) s t ∧
      t.cpu.flag .c = modifyCarry op (s.cpu.flag .c) (operandByte r s).1.toNat ∧ ZNOf (BitVec.ofNat 8 n) t.cpu ∧
      SameFlagsBut [.c, .z, .n] s.cpu t.cpu := by
  obtain ⟨f, hf, hresult, hbefore⟩ := modifyEffect_of_result h
  rw [operate_modify hf, modifyAt, operandByte_of_tag (by rw [ht]; decide), writeBack_of_not_acc (by rw [ht]; decide), hea]
  rw [hresult, State.mapCpu, hbefore, writeThen_some (memWrite_ram (by decide) _ _)]
  exact ⟨_, rfl, ⟨rfl, rfl, rfl, rfl, rfl, rfl, rfl⟩, ⟨rfl, rfl, rfl, rfl, rfl⟩, rfl,
    fun b hb => (byteAt_congr (s := s.setRam (Memory.write s.ram (ramIndex 0) (BitVec.ofNat 8 n))) (by rfl) (by rfl)
      (.inl hb)).trans (ramAfterWrite_setRam 0 (BitVec.ofNat 8 n) hwf b hb),
    flag_c_modify _ _ s.cpu, znOf_setZN _ (s.cpu.setFlag .c _), sameFlagsBut_modify _ _ s.cpu⟩

/-- An operation that reads where nothing is in memory does what its immediate form does with that byte. -/
theorem operate_read_of_tag {j : Instr} {r : Resolution} {s : State} (ht : r.tag ≠ .mem)
    (hj : j.operand = .src (.imm (operandByte r s).1)) (base : Nat) :
    ∃ t, exec j s = .next t ∧ operate j.operation r base s = .next (t.charge base) := by
  obtain ⟨f, hf⟩ := readEffect_of_imm hj
  refine ⟨_, exec_read_eq hf hj s, ?_⟩
  rw [operate_read hf, readAt, operandByte_of_tag ht]
  rfl

/-- Bit 6 of a byte as a number. -/
theorem getLsbD_six (v : Byte) : v.getLsbD 6 = decide (64 ≤ v.toNat % 128) := by
  rw [BitVec.getLsbD, Nat.testBit_eq_decide_div_mod_eq]
  exact decide_eq_decide.mpr (by omega)

/-- BIT where nothing is in memory, its three flags as numbers (43_logical.md R169). -/
theorem operate_bit_of_tag {r : Resolution} (ht : r.tag ≠ .mem) (base : Nat) (s : State) :
    let m := (operandByte r s).1
    ∃ t, operate .bit r base s = .next t ∧ RegistersAre s t s.cpu.a s.cpu.x s.cpu.y s.cpu.sp s.cpu.pc base ∧
      t.cpu.flag .z = decide (s.cpu.a &&& m = 0) ∧ t.cpu.flag .v = decide (64 ≤ m.toNat % 128) ∧
      t.cpu.flag .n = decide (128 ≤ m.toNat) ∧ SameFlagsBut [.z, .v, .n] s.cpu t.cpu := by
  intro m
  rw [operate_read (f := Cpu.bitTest) rfl, readAt, operandByte_of_tag ht, ← getLsbD_six, ← getLsbD_seven]
  exact ⟨_, rfl, ⟨⟨⟨rfl, rfl, rfl, rfl, rfl, rfl, rfl⟩, rfl⟩, rfl, rfl, rfl, rfl, rfl, rfl⟩,
    Cpu.flag_bitTest .z m s.cpu, Cpu.flag_bitTest .v m s.cpu, Cpu.flag_bitTest .n m s.cpu, sameFlagsBut_bitTest m s.cpu⟩

/-- Settles O5: an undefined opcode is `operate` on what its entry's mode resolves to, read clause by clause. -/
theorem undefinedOpcodesRunTheirTableEntry : Obligations.UndefinedOpcodesRunTheirTableEntry := by
  intro s op hs e r u cost
  have hund : exec (.und op) s = operate e.operation r (e.cycles + crossPenalty e.operation r) u := rfl
  obtain ⟨-, hfatal, hram, -⟩ := resolveMode_frame e.mode s
  have hu : u.Running := hfatal.trans hs
  have uncrossed : pageCrossCosts e.operation = false → exec (.und op) s = operate e.operation r e.cycles u := fun h => by
    rw [hund, crossPenalty_of_operation h, Nat.add_zero]
  have unresolved : r.tag ≠ .mem → exec (.und op) s = operate e.operation r e.cycles u := fun h => by
    rw [hund, crossPenalty_of_tag h, Nat.add_zero]
  refine ⟨fun j hop hmode hne => ?row, fun hop => ?und, fun j hop hmode hne => ?implied, fun f value hf => ?branch,
    fun j hop hj h => ?memory, fun v hv ht => ?storeAcc, fun n hn ht => ?modifyAcc, fun ht => ?absent⟩
  case row =>
    intro b hb
    exact execUnd_of_row op hs hop hmode (hop ▸ hne) hb
  case und =>
    rw [uncrossed (by rw [hop]; rfl), hop]
    rfl
  case implied =>
    rw [uncrossed (hop ▸ pageCrossCosts_of_imp hmode), ← hop]
    exact operate_implied hmode (hop ▸ hne) r e.cycles u
  case branch =>
    rw [uncrossed (pageCrossCosts_of_branch hf), operate_branch hf, branchTo_next, takenCycles_eq]
    exact congrArg _ (if_congr beq_iff_eq rfl rfl)
  case memory =>
    have hcost : cost = e.cycles + crossPenalty e.operation r := congrArg (e.cycles + ·) (crossPenalty_eq_ite _ r).symm
    rw [hund, ← hcost, ← hop]
    exact operate_absolute hu hj (hop ▸ h) cost
  case storeAcc =>
    rw [unresolved (by rw [ht]; decide), operate_store hv, storeAt, writeBack_acc ht]
    rfl
  case modifyAcc =>
    rw [unresolved (by rw [ht]; decide)]
    exact operate_modify_acc ht hn e.cycles
  case absent =>
    refine ⟨(operandByte r u).1, fun hacc => by rw [operandByte_acc hacc], fun j hop hj => ?read, fun hop => ?bit,
      fun n hn hnone hwf => ?modify⟩
    case read =>
      rw [unresolved ht, ← hop]
      exact operate_read_of_tag ht hj e.cycles
    case bit =>
      rw [unresolved ht, hop]
      exact operate_bit_of_tag ht e.cycles u
    case modify =>
      obtain ⟨hea, -, -⟩ := resolveMode_of_tag ht
      have huwf : Memory.wf 0 2048 u.ram := (congrArg (Memory.wf 0 2048) hram).mpr hwf
      rw [unresolved ht]
      exact operate_modify_none hnone hea huwf hn e.cycles

end Sys2Proof.Machine
end
